-- ==== Sys2Proof/Word.lean ====
section
/-!
DEFINITION. The byte and word types (R8, R11) and the three closed tag sets of the command word (R7, R91 to R93).
-/

namespace Sys2Proof

/-- R8: a byte is a natural number 0 to 255. -/
abbrev Byte := BitVec 8

/-- R8: a byte string is a finite sequence of bytes, indexed from 0. A block is one of length B. -/
abbrev ByteString := List Byte

/-- R90: the one command word width. -/
abbrev Word := BitVec 16

/-- R91: the operation of a command, its OPC field. -/
inductive Dir where
  /-- OPC = 1 -/
  | enc
  /-- OPC = 2 -/
  | dec
  deriving DecidableEq, Repr

/-- R92: the seven modes, in the order of their MODE values 0 to 6. -/
inductive Mode where
  | ecb | cbc | pcbc | cfb | ofb | ctr | rd
  deriving DecidableEq, Repr

/-- R93: the four padding schemes, in the order of their PAD values 0 to 3. -/
inductive PadScheme where
  | zeros | pkcs7 | ansix923 | iso10126
  deriving DecidableEq, Repr

end Sys2Proof
end

