-- ==== Sys2Proof/Config.lean ====
section
/-!
DEFINITION. The parameters of R6 and R39 as plain data (`Platform`), and the free values: constants without a body, of
which nothing can be proved, so that a theorem holds whatever the hardware answers.
-/

namespace Sys2Proof

/-- R30: the three memory spaces. -/
inductive Space where
  | inbuf | outbuf | ivmem
  deriving DecidableEq, Repr

/-- One direction of the attached cipher, R240: a function from blocks to `ok y` (`some y`) or `fail` (`none`). `known`
lists answers that are fixed; a block not listed is answered by the free function `Config.cipherAnswer key`. Every
function on the blocks of one size is some list of known answers, so a statement over all states is one over all E and D
(DESIGN CHOICE, log 7). `key` names the algorithm and its current key material. -/
structure PortFn where
  key : Nat
  known : List (ByteString × Option ByteString)
  deriving DecidableEq, Repr

/-- R240: the cipher unit behind the cipher port, `BlockSize()`, `EncryptBlock` and `DecryptBlock`. -/
structure Cipher where
  size : Nat
  enc : PortFn
  dec : PortFn
  deriving DecidableEq, Repr

/-- The parameters of R6 that are not fixed for every engine. They are arguments of the step relation and no engine step
changes them (R39); holding them in the state makes every statement over all states one over all parameters (log 2). -/
structure Platform where
  /-- CBOUND, B, E and D: the attached cipher, if any. -/
  cipher : Option Cipher
  /-- CAP, the capacity of INBUF. -/
  cap : Nat
  /-- CTR_BASE (D13). -/
  ctrBase : Fin 2
  /-- RD_NEEDS_IV (D12). -/
  rdNeedsIv : Bool
  deriving DecidableEq, Repr

/-- What the cipher under key material `key` answers to a block that is not among the known answers (U7): free (log 7). -/
opaque Config.cipherAnswer (key : Nat) (x : ByteString) : Option ByteString

/-- The n-th byte the randomness port ever yields, where the state does not fix it (U5, R243): free (log 8). -/
opaque Config.rndByte (n : Nat) : Byte

/-- The n-th choice of a pending index in a phase whose order is left open, where the state does not fix it (U6, R203):
free; it is taken modulo the number of pending indices (log 9). -/
opaque Config.pendingPick (n : Nat) : Nat

/-- The value of a byte of memory that nothing has written since the reset numbered `epoch` (U1): free (log 5). -/
opaque Config.unwritten (epoch : Nat) (sp : Space) (a : Nat) : Byte

/-- The n-th unspecified byte a host read returns (U2, U3): free, fresh at each read (log 10). -/
opaque Config.hostByte (n : Nat) : Byte

/-- R6: IVCAP. -/
def ivCap : Nat := 256

/-- The parameters `State.reset` starts from: the start state of the spec's own programs (95_test_vectors.md section 4:
cipher attached, CAP >= 64, CTR_BASE = 0, RD_NEEDS_IV = true), at the block size of the spec's examples, with every cipher
answer free. DESIGN CHOICE (log 3): the spec leaves CAP, B and the cipher to the platform. -/
def Config.resetPlatform : Platform where
  cipher := some { size := 8, enc := { key := 0, known := [] }, dec := { key := 1, known := [] } }
  cap := 65536
  ctrBase := 0
  rdNeedsIv := true

end Sys2Proof
end

