-- ==== Sys2Proof/Syntax.lean ====
section
/-!
DEFINITION. The 14 commands of R96, one constructor per row of spec/opcode_table.json.
-/

namespace Sys2Proof

/-- A legal command word (R97): operation and mode are the constructor, `opt` is OPT (R94, ignored by every rule) and
`pad` is PAD (R93). -/
inductive Instr where
  /-- ENC.ECB, match 0x1000, R140 -/
  | encEcb (opt : BitVec 4) (pad : PadScheme)
  /-- ENC.CBC, match 0x1010, R142 -/
  | encCbc (opt : BitVec 4) (pad : PadScheme)
  /-- ENC.PCBC, match 0x1020, R145 -/
  | encPcbc (opt : BitVec 4) (pad : PadScheme)
  /-- ENC.CFB, match 0x1030, R160 -/
  | encCfb (opt : BitVec 4) (pad : PadScheme)
  /-- ENC.OFB, match 0x1040, R162 -/
  | encOfb (opt : BitVec 4) (pad : PadScheme)
  /-- ENC.CTR, match 0x1050, R165 -/
  | encCtr (opt : BitVec 4) (pad : PadScheme)
  /-- ENC.RD, match 0x1060, R181 -/
  | encRd (opt : BitVec 4) (pad : PadScheme)
  /-- DEC.ECB, match 0x2000, R141 -/
  | decEcb (opt : BitVec 4) (pad : PadScheme)
  /-- DEC.CBC, match 0x2010, R143 and R144 -/
  | decCbc (opt : BitVec 4) (pad : PadScheme)
  /-- DEC.PCBC, match 0x2020, R146 -/
  | decPcbc (opt : BitVec 4) (pad : PadScheme)
  /-- DEC.CFB, match 0x2030, R161 -/
  | decCfb (opt : BitVec 4) (pad : PadScheme)
  /-- DEC.OFB, match 0x2040, R163 -/
  | decOfb (opt : BitVec 4) (pad : PadScheme)
  /-- DEC.CTR, match 0x2050, R166 -/
  | decCtr (opt : BitVec 4) (pad : PadScheme)
  /-- DEC.RD, match 0x2060, R183 -/
  | decRd (opt : BitVec 4) (pad : PadScheme)
  deriving DecidableEq, Repr

end Sys2Proof
end

