-- ==== Sys2Proof/WellFormed.lean ====
section
/-!
DEFINITION. What is well-formed before anything runs: a command word (R97), a cipher (R6, U8), a platform (R6, U9). A term
of `Instr` needs no check: its fields range over the values R91 to R94 allow and over nothing else.
-/

namespace Sys2Proof

/-- R97: a word is legal when OPC is 1 or 2, MODE is 0 to 6 and PAD is 0 to 3; OPT may be anything. -/
def legalWord (w : Word) : Bool :=
  ((w >>> 12).toNat % 16 == 1 || (w >>> 12).toNat % 16 == 2) &&
    decide ((w >>> 4).toNat % 16 ≤ 6) && decide (w.toNat % 16 ≤ 3)

/-- R6, U8: a block size from 1 to 255. -/
def Cipher.wellFormed (c : Cipher) : Bool := decide (1 ≤ c.size) && decide (c.size ≤ 255)

/-- R6, U9: the ranges of the parameters. -/
def Platform.wellFormed (p : Platform) : Bool :=
  p.cipher.all Cipher.wellFormed && decide (1 ≤ p.cap) && decide (p.cap + 510 < 2 ^ 32)

end Sys2Proof
end

