-- ==== Sys2Proof/Decode.lean ====
section
/-!
DEFINITION. The decoder of R99, total on all 65536 words and rejecting by name, and the encoder, its inverse. A command
word is a value written to CMD, not bytes in a memory (R62, R77), so there is no byte order to settle here.
-/

namespace Sys2Proof

/-- Why R99 answers Illegal: the first field, in the decoder's order, whose value R97 does not allow. -/
inductive DecodeError where
  /-- OPC is neither 1 nor 2. -/
  | unsupportedOpc
  /-- MODE is above 6. -/
  | unsupportedMode
  /-- PAD is above 3. -/
  | unsupportedPad
  deriving DecidableEq, Repr

/-- R90: OPC is bits 15:12. -/
def opcField (w : Word) : BitVec 4 := w.extractLsb' 12 4
/-- R90: OPT is bits 11:8. -/
def optField (w : Word) : BitVec 4 := w.extractLsb' 8 4
/-- R90: MODE is bits 7:4. -/
def modeField (w : Word) : BitVec 4 := w.extractLsb' 4 4
/-- R90: PAD is bits 3:0. -/
def padField (w : Word) : BitVec 4 := w.extractLsb' 0 4

/-- R91. -/
def dirOf (f : BitVec 4) : Option Dir :=
  match f.toNat with
  | 1 => some .enc
  | 2 => some .dec
  | _ => none

/-- R92. -/
def modeOf (f : BitVec 4) : Option Mode :=
  match f.toNat with
  | 0 => some .ecb
  | 1 => some .cbc
  | 2 => some .pcbc
  | 3 => some .cfb
  | 4 => some .ofb
  | 5 => some .ctr
  | 6 => some .rd
  | _ => none

/-- R93. -/
def padOf (f : BitVec 4) : Option PadScheme :=
  match f.toNat with
  | 0 => some .zeros
  | 1 => some .pkcs7
  | 2 => some .ansix923
  | 3 => some .iso10126
  | _ => none

/-- R96: the command of an operation and a mode. -/
def Instr.ofTags (d : Dir) (m : Mode) (opt : BitVec 4) (pad : PadScheme) : Instr :=
  match d, m with
  | .enc, .ecb => .encEcb opt pad
  | .enc, .cbc => .encCbc opt pad
  | .enc, .pcbc => .encPcbc opt pad
  | .enc, .cfb => .encCfb opt pad
  | .enc, .ofb => .encOfb opt pad
  | .enc, .ctr => .encCtr opt pad
  | .enc, .rd => .encRd opt pad
  | .dec, .ecb => .decEcb opt pad
  | .dec, .cbc => .decCbc opt pad
  | .dec, .pcbc => .decPcbc opt pad
  | .dec, .cfb => .decCfb opt pad
  | .dec, .ofb => .decOfb opt pad
  | .dec, .ctr => .decCtr opt pad
  | .dec, .rd => .decRd opt pad

/-- R99: the decoder. -/
def decode (w : Word) : Except DecodeError Instr :=
  match dirOf (opcField w), modeOf (modeField w), padOf (padField w) with
  | none, _, _ => .error .unsupportedOpc
  | some _, none, _ => .error .unsupportedMode
  | some _, some _, none => .error .unsupportedPad
  | some d, some m, some p => .ok (Instr.ofTags d m (optField w) p)

/-- The operation of a command, its OPC. -/
def Instr.dir : Instr → Dir
  | .encEcb _ _ | .encCbc _ _ | .encPcbc _ _ | .encCfb _ _ | .encOfb _ _ | .encCtr _ _ | .encRd _ _ => .enc
  | .decEcb _ _ | .decCbc _ _ | .decPcbc _ _ | .decCfb _ _ | .decOfb _ _ | .decCtr _ _ | .decRd _ _ => .dec

/-- The mode of a command, its MODE. -/
def Instr.mode : Instr → Mode
  | .encEcb _ _ | .decEcb _ _ => .ecb
  | .encCbc _ _ | .decCbc _ _ => .cbc
  | .encPcbc _ _ | .decPcbc _ _ => .pcbc
  | .encCfb _ _ | .decCfb _ _ => .cfb
  | .encOfb _ _ | .decOfb _ _ => .ofb
  | .encCtr _ _ | .decCtr _ _ => .ctr
  | .encRd _ _ | .decRd _ _ => .rd

/-- The OPT field of a command (R94). -/
def Instr.opt : Instr → BitVec 4
  | .encEcb o _ | .encCbc o _ | .encPcbc o _ | .encCfb o _ | .encOfb o _ | .encCtr o _ | .encRd o _
  | .decEcb o _ | .decCbc o _ | .decPcbc o _ | .decCfb o _ | .decOfb o _ | .decCtr o _ | .decRd o _ => o

/-- The padding scheme of a command, its PAD. -/
def Instr.pad : Instr → PadScheme
  | .encEcb _ p | .encCbc _ p | .encPcbc _ p | .encCfb _ p | .encOfb _ p | .encCtr _ p | .encRd _ p
  | .decEcb _ p | .decCbc _ p | .decPcbc _ p | .decCfb _ p | .decOfb _ p | .decCtr _ p | .decRd _ p => p

/-- R91: the OPC value of an operation. -/
def Dir.code : Dir → BitVec 4
  | .enc => 1
  | .dec => 2

/-- R92: the MODE value of a mode. -/
def Mode.code : Mode → BitVec 4
  | .ecb => 0
  | .cbc => 1
  | .pcbc => 2
  | .cfb => 3
  | .ofb => 4
  | .ctr => 5
  | .rd => 6

/-- R93: the PAD value of a scheme. -/
def PadScheme.code : PadScheme → BitVec 4
  | .zeros => 0
  | .pkcs7 => 1
  | .ansix923 => 2
  | .iso10126 => 3

/-- R96, R99: a full command word is OPC * 4096 + OPT * 256 + MODE * 16 + PAD. -/
def encode (i : Instr) : Word :=
  i.dir.code ++ i.opt ++ i.mode.code ++ i.pad.code

/-- What the decoder reads from the low 16 bits of an instruction numbered as spec/opcode_table.json numbers it: the
command word itself, bit 0 its least significant (R11). `nbits` below 16 leaves the bits above it zero. -/
def tableWord (nbits w : Nat) : Word := BitVec.ofNat 16 (w % 2 ^ nbits)

/-- The instruction this decoder reads from a table word, none where it refuses. -/
def decodeTableWord (nbits w : Nat) : Option Instr := (decode (tableWord nbits w)).toOption

end Sys2Proof
end

