-- ==== Sys2Proof/Machine/State.lean ====
section
/-!
DEFINITION. The state of the engine (R20), the agents' plain data beside it, the reasons a step can stop, and the state after
reset (R40).
-/

namespace Sys2Proof.Machine

/-- R32: the sequencer phase. -/
inductive Phase where
  | idle | check | pad | init | blocks | combine | unpad
  deriving DecidableEq, Repr

/-- R98: the errors of an operation. -/
inductive EngineError where
  /-- code 1, R220 -/
  | configuration
  /-- code 2, R221 -/
  | input
  /-- code 3, R222 -/
  | iv
  /-- code 4, R223 -/
  | padding
  /-- code 7, R224 -/
  | cipher
  deriving DecidableEq, Repr

/-- Bytes of one memory space: cells (address, byte) at strictly rising addresses. An address that is not listed has not
been written since the space became unspecified, and has no value of its own (log 5). -/
abbrev Memory := List Host.Cell

/-- One move of the agents that are not the engine, R70 to R73 and R101 (the host), R242 and R252 (the platform), R250
(the reset input). -/
inductive HostMove where
  /-- `HostReadReg(n)`, R70. -/
  | readReg (n : Fin 8)
  /-- `HostWriteReg(n, v)`, R71. -/
  | writeReg (n : Fin 8) (v : BitVec 32)
  /-- `HostReadByte(SPACE, a)`, R73. -/
  | readByte (sp : Space) (a : Nat)
  /-- `HostWriteByte(SPACE, a, v)`, R72. -/
  | writeByte (sp : Space) (a : Nat) (v : Byte)
  /-- `WAIT`, R101: poll STATUS until BUSY reads 0, the engine stepping meanwhile. -/
  | wait
  /-- The host lets the engine take one step: the place of an engine event in the total order of R74. -/
  | engine
  /-- The reset input is asserted, R250. -/
  | reset
  /-- The platform attaches, replaces or detaches a cipher, R252 step 1. -/
  | attach (c : Option Cipher)
  /-- `SetEncryptionKey` on the attached cipher, R242: E becomes `f`, D stays (DESIGN CHOICE, log 16). -/
  | setEncryptionKey (f : PortFn)
  /-- `SetDecryptionKey` on the attached cipher, R242: D becomes `f`, E stays (DESIGN CHOICE, log 16). -/
  | setDecryptionKey (f : PortFn)
  deriving DecidableEq, Repr

/-- What a host read returned. -/
inductive HostAnswer where
  | reg (n : Fin 8) (v : BitVec 32)
  | byte (sp : Space) (a : Nat) (v : Byte)
  deriving DecidableEq, Repr

/-- The host as an agent: its pending moves and the answers it got, each oldest first (log 4). The model's own fields, not
the spec's state. -/
structure HostAgent where
  todo : List HostMove
  seen : List HostAnswer
  deriving DecidableEq, Repr

/-- Where the free values come from. The model's own fields, not the spec's state: no statement rests on a value of them. -/
structure FreeValues where
  /-- Bytes the randomness port is known to yield next, oldest first; after them `Config.rndByte` (log 8). -/
  rnd : List Byte
  /-- How many bytes were ever drawn. -/
  drawn : Nat
  /-- Choices of a pending index known in advance, oldest first; after them `Config.pendingPick` (log 9). -/
  picks : List Nat
  /-- How many such choices were made. -/
  picked : Nat
  /-- How many resets there were: which contents unwritten memory has (log 5). -/
  epoch : Nat
  /-- How many unspecified bytes host reads have returned (log 10). -/
  reads : Nat
  deriving DecidableEq, Repr

/-- The state: R20's, then the parameters of R6, then the model's own fields. -/
structure State where
  /-- CTX, R24: the command word of the current or last operation. -/
  ctx : Word
  /-- STATUS.BUSY, R23. -/
  busy : Bool
  /-- STATUS.DONE, R23. -/
  done : Bool
  /-- STATUS.ERR, R23, R98. -/
  err : BitVec 3
  /-- INLEN, R26. -/
  inlen : BitVec 32
  /-- OUTLEN, R27. -/
  outlen : BitVec 32
  /-- IVLEN, R28. -/
  ivlen : BitVec 9
  /-- INBUF, R30. -/
  inbuf : Memory
  /-- OUTBUF, R30. -/
  outbuf : Memory
  /-- IVMEM, R30. -/
  ivmem : Memory
  /-- PHASE, R32. -/
  phase : Phase
  /-- PENDING, R34: a set, kept as a list without repeats. -/
  pending : List Nat
  /-- NBLK, R33. -/
  nblk : Nat
  /-- PADLEN, R35. -/
  padlen : Nat
  /-- TAIL, R35. -/
  tail : ByteString
  /-- FB, R36. -/
  fb : ByteString
  /-- The parameters of R6, which no engine step changes (R39). -/
  plat : Platform
  host : HostAgent
  free : FreeValues
  deriving DecidableEq, Repr

/-- Reasons the machine stops. -/
inductive Fault where
  /-- Raised by an engine step of INIT, BLOCKS, COMBINE or UNPAD whose rule would read or write an address, a TAIL byte or
  an FB byte that does not exist. R13 defines such accesses only inside their space, R66 derives that every rule keeps
  within it, so no run from reset meets this fault. Safe (log 11). -/
  | operandOutsideSpace
  deriving DecidableEq, Repr

/-- Reasons the model gives a step no meaning. -/
inductive Refusal where
  /-- Raised by an arm of exec whose instruction has no meaning yet. Safe. -/
  | notModelled (mnemonic : String)
  /-- Raised by an engine step in a phase that R200 gives the command no transition from (an ENC command in COMBINE or
  UNPAD, a DEC command in PAD, a DEC command other than DEC.CBC in COMBINE, an illegal word after CHECK). No run from
  reset meets it. Safe (log 12). -/
  | noTransition
  /-- Raised by the moves `attach`, `setEncryptionKey` and `setDecryptionKey` while BUSY = 1: R260 forbids them and U4 says
  to refuse such a run. Safe for what the model proves of its runs; the spec notes that the hardware may show more
  (log 13). -/
  | keyChangeWhileBusy
  /-- Raised by the move `attach` of a cipher whose block size is 0 or above 255: U8 says to refuse it. Safe (log 13). -/
  | blockSizeOutOfRange
  deriving DecidableEq, Repr

/-- B, R25: the block size of a platform's cipher, 0 when none is bound. -/
def blockSizeOf (p : Platform) : Nat := (p.cipher.map Cipher.size).getD 0

/-- R40: the state after reset on a platform with the parameters `p`. TAIL and FB are unspecified there; the model names
zero bytes (DESIGN CHOICE, log 6). -/
def State.resetOn (p : Platform) : State where
  ctx := 0
  busy := false
  done := false
  err := 0
  inlen := 0
  outlen := 0
  ivlen := 0
  inbuf := []
  outbuf := []
  ivmem := []
  phase := .idle
  pending := []
  nblk := 0
  padlen := 0
  tail := List.replicate (blockSizeOf p) 0
  fb := List.replicate (blockSizeOf p) 0
  plat := p
  host := { todo := [], seen := [] }
  free := { rnd := [], drawn := 0, picks := [], picked := 0, epoch := 0, reads := 0 }

/-- R40, on the platform the model names (log 3). -/
def State.reset : State := State.resetOn Config.resetPlatform

end Sys2Proof.Machine
end

