-- ==== Sys2Proof/Machine/Ops.lean ====
section
/-!
DEFINITION. The named operations: byte strings and block arithmetic (R9, R10), memory (R60, R13), the parameters (R25),
the two ports (R240, R243), the free choice of R203, acceptance (R190), and the two endings of an operation, the error end
(R226, the engine's "trap entry") and the normal end (R225).
-/

namespace Sys2Proof.Machine

/-- R9: the blockwise XOR, byte k of one operand with byte k of the other. -/
def xor (s t : ByteString) : ByteString := List.zipWith (fun a b => a ^^^ b) s t

/-- R10: `be(b)`, byte 0 the most significant. -/
def be (b : ByteString) : Nat := b.foldl (fun n x => n * 256 + x.toNat) 0

/-- R10: `tobe(n)`, the block of `len` bytes with `be` equal to `n`. -/
def tobe (len n : Nat) : ByteString :=
  (List.range len).map fun k => BitVec.ofNat 8 (n / 256 ^ (len - 1 - k))

/-- R10: `addbe(b, n)`, the carry out of byte 0 dropped. -/
def addbe (b : ByteString) (n : Nat) : ByteString := tobe b.length ((be b + n) % 256 ^ b.length)

/-- The byte listed at an address, none where nothing has been written. -/
def Memory.get? (m : Memory) (a : Nat) : Option Byte :=
  match m with
  | [] => none
  | (b, v) :: rest => if b = a then some v else Memory.get? rest a

/-- R72, R69: one byte is written at an address; the cells stay in rising order. -/
def Memory.set (m : Memory) (a : Nat) (v : Byte) : Memory :=
  match m with
  | [] => [(a, v)]
  | (b, u) :: rest =>
    if a < b then (a, v) :: (b, u) :: rest
    else if a = b then (a, v) :: rest
    else (b, u) :: Memory.set rest a v

/-- R13 `MemWrite`: the bytes of `bs` from address `a` on, the first at `a`. -/
def Memory.write (m : Memory) (a : Nat) (bs : ByteString) : Memory :=
  match bs with
  | [] => m
  | v :: rest => Memory.write (Memory.set m a v) (a + 1) rest

/-- The canonical form: strictly rising addresses, each below `cap`. No value is the value of an unlisted byte, so no
listed cell can equal one. -/
def Memory.wf (cap : Nat) (m : Memory) : Bool :=
  match m with
  | [] => true
  | (a, _) :: rest => decide (a < cap) && rest.all (fun c => decide (a < c.1)) && Memory.wf cap rest

/-- R23: CBOUND, whether a cipher is attached. -/
def State.cbound (s : State) : Bool := s.plat.cipher.isSome

/-- R25: B, the value of BLKSZ. -/
def State.blkSz (s : State) : Nat := blockSizeOf s.plat

/-- R6: CAP. -/
def State.cap (s : State) : Nat := s.plat.cap

/-- R6: OUTCAP = CAP + 2 * 255. -/
def State.outCap (s : State) : Nat := s.plat.cap + 510

/-- The memory of a space. -/
def State.space (s : State) (sp : Space) : Memory :=
  match sp with
  | .inbuf => s.inbuf
  | .outbuf => s.outbuf
  | .ivmem => s.ivmem

/-- One byte of a space: the byte written last, else the free value of a byte that nothing has written (U1, log 5). -/
def State.byteAt (s : State) (sp : Space) (a : Nat) : Byte :=
  ((s.space sp).get? a).getD (Config.unwritten s.free.epoch sp a)

/-- R13 `MemRead(SPACE, addr, n)`, lowest address first. -/
def State.memRead (s : State) (sp : Space) (a n : Nat) : ByteString :=
  (List.range n).map fun k => s.byteAt sp (a + k)

/-- R13 `MemWrite(OUTBUF, addr, n, v)`: the engine writes only OUTBUF. -/
def State.writeOut (s : State) (a : Nat) (bs : ByteString) : State :=
  { s with outbuf := s.outbuf.write a bs }

/-- FB <- v. -/
def State.setFb (s : State) (v : ByteString) : State := { s with fb := v }

/-- What one direction of a cipher answers to a block: the known answer, else the free one (log 7). -/
def knownOrFree (f : PortFn) (x : ByteString) : Option ByteString :=
  (f.known.lookup x).getD (Config.cipherAnswer f.key x)

/-- R240: a request is answered `ok y` with y exactly B bytes, or `fail`; an answer of another length is none of the
cipher port's and counts as `fail` (log 7). -/
def portAnswer (size : Nat) (f : PortFn) (x : ByteString) : Option ByteString :=
  (knownOrFree f x).filter fun y => y.length == size

/-- R13, R240: `CipherEnc(x)`. With no cipher bound there is nothing to answer; CHECK has ruled that out (R192). -/
def State.cipherEnc (s : State) (x : ByteString) : Option ByteString :=
  s.plat.cipher.bind fun c => portAnswer c.size c.enc x

/-- R13, R240: `CipherDec(x)`. -/
def State.cipherDec (s : State) (x : ByteString) : Option ByteString :=
  s.plat.cipher.bind fun c => portAnswer c.size c.dec x

/-- The byte the randomness port yields k draws from now (R243). -/
def State.rndAt (s : State) (k : Nat) : Byte := (s.free.rnd[k]?).getD (Config.rndByte (s.free.drawn + k))

/-- R13, R243 `RndBytes(n)`: the next n bytes, in the order drawn. -/
def State.rndBytes (s : State) (n : Nat) : ByteString := (List.range n).map s.rndAt

/-- n bytes have been drawn: they stay drawn (R226, R251). -/
def State.drop (s : State) (n : Nat) : State :=
  { s with free := { s.free with rnd := s.free.rnd.drop n, drawn := s.free.drawn + n } }

/-- The next choice of a pending index where R203 leaves it open (log 9). -/
def State.pick (s : State) : Nat := (s.free.picks.head?).getD (Config.pendingPick s.free.picked)

/-- That choice has been made. -/
def State.dropPick (s : State) : State :=
  { s with free := { s.free with picks := s.free.picks.tail, picked := s.free.picked + 1 } }

/-- PENDING <- PENDING \ {i}. -/
def State.retire (s : State) (i : Nat) : State := { s with pending := s.pending.filter (fun j => j ≠ i) }

/-- R98: the code of an error. -/
def EngineError.code : EngineError → BitVec 3
  | .configuration => 1
  | .input => 2
  | .iv => 3
  | .padding => 4
  | .cipher => 7

/-- R190: a command word is accepted. Every 16-bit value is. -/
def State.accept (s : State) (w : Word) : State :=
  { s with ctx := w, busy := true, done := false, err := 0, outlen := 0, phase := .check }

/-- R226: `raise e`, the error end of an operation. Every byte of OUTBUF becomes unspecified: none stays listed. -/
def State.raise (s : State) (e : EngineError) : State :=
  { s with outlen := 0, err := e.code, done := true, busy := false, phase := .idle, outbuf := [] }

/-- R225: the normal end of an operation with result length `len`. R225 and R66 leave the bytes of OUTBUF at and beyond
`len` unspecified; the model keeps what was stored there listed (DESIGN CHOICE, log 15). -/
def State.finish (s : State) (len : Nat) : State :=
  { s with outlen := BitVec.ofNat 32 len, err := 0, done := true, busy := false, phase := .idle }

/-- R250, R251: the reset input is asserted. The parameters, the host and what the ports have already yielded are not
reset; memory becomes unspecified afresh, which the epoch records. -/
def State.assertReset (s : State) : State :=
  { State.resetOn s.plat with host := s.host, free := { s.free with epoch := s.free.epoch + 1 } }

/-- The machine with the command word `w` just accepted and the engine to move next: what stands before the first engine
step of a command (R190). It is how `withFetchWord` places an instruction (log 14). -/
def State.place (s : State) (w : Word) : State :=
  { s with host := { s.host with todo := [] } }.accept w

end Sys2Proof.Machine
end

