-- ==== Sys2Proof/Machine/Flags.lean ====
section
/-!
DEFINITION. The flags: the fields of STATUS as the host reads them (R23, R29), and the conditions of the CHECK step (R192 to
R194). The engine has no condition codes and no arithmetic flags (R29).
-/

namespace Sys2Proof.Machine

/-- R23: STATUS as an 8-bit word: bits 7:6 zero, CBOUND, ERR, DONE, BUSY. -/
def State.statusWord (s : State) : BitVec 8 :=
  0#2 ++ BitVec.ofBool s.cbound ++ s.err ++ BitVec.ofBool s.done ++ BitVec.ofBool s.busy

/-- R67 to R69: SEEDOFF is B in RandomDelta and 0 otherwise. -/
def State.seedOff (s : State) (m : Mode) : Nat := if m = .rd then s.blkSz else 0

/-- R193: the input conditions of a DEC command. -/
def State.inputBad (s : State) (m : Mode) : Bool :=
  decide (s.inlen.toNat % s.blkSz ≠ 0) || (decide (m = .rd) && decide (s.inlen.toNat < s.blkSz))

/-- R194: whether a mode needs an IV. -/
def State.needsIv (s : State) (m : Mode) : Bool :=
  match m with
  | .ecb => false
  | .cbc | .pcbc | .cfb | .ofb | .ctr => true
  | .rd => s.plat.rdNeedsIv

/-- R194: the IV condition. -/
def State.ivBad (s : State) (m : Mode) : Bool := s.needsIv m && decide (s.ivlen.toNat ≠ s.blkSz)

/-- R203: the commands whose BLOCKS phase may take any pending index. -/
def freeOrder (d : Dir) (m : Mode) : Bool :=
  match d, m with
  | _, .ecb | _, .ctr | .dec, .cbc => true
  | _, _ => false

/-- R36: the commands whose block rule reads FB. -/
def usesFb (d : Dir) (m : Mode) : Bool :=
  match d, m with
  | _, .ecb | _, .ctr | .dec, .cbc => false
  | _, _ => true

end Sys2Proof.Machine
end

