-- ==== Sys2Proof/Machine/Operands.lean ====
section
/-!
DEFINITION. The operand forms: the block access primitives PBlk, CBlk and OutBlk (R67 to R69), the counter block (R164), the
index a block step takes (R203), and the condition that the operands of a step lie inside their spaces (R13, R66).
-/

namespace Sys2Proof.Machine

/-- R67: byte a of the padded message. -/
def State.padded (s : State) (a : Nat) : Byte :=
  if a < s.inlen.toNat then s.byteAt .inbuf a else s.tail.getD (a - s.inlen.toNat) 0

/-- R67: `PBlk(i)`, block i of the padded message INBUF[0 .. INLEN) ++ TAIL[0 .. PADLEN). -/
def State.pBlk (s : State) (i : Nat) : ByteString :=
  (List.range s.blkSz).map fun k => s.padded (i * s.blkSz + k)

/-- R68: `CBlk(i)`, content block i. -/
def State.cBlk (s : State) (m : Mode) (i : Nat) : ByteString :=
  s.memRead .inbuf (s.seedOff m + i * s.blkSz) s.blkSz

/-- R69: the OUTBUF address of result block i. -/
def State.outAddr (s : State) (d : Dir) (m : Mode) (i : Nat) : Nat :=
  match d with
  | .enc => s.seedOff m + i * s.blkSz
  | .dec => i * s.blkSz

/-- R69: `OutBlk(i) <- v`. -/
def State.putBlk (s : State) (d : Dir) (m : Mode) (i : Nat) (v : ByteString) : State :=
  s.writeOut (s.outAddr d m i) v

/-- R69: `OutBlk(i)` read back, in the CBC decrypt combine. -/
def State.getBlk (s : State) (i : Nat) : ByteString := s.memRead .outbuf (i * s.blkSz) s.blkSz

/-- R199, R164: the B bytes of the IV. -/
def State.iv (s : State) : ByteString := s.memRead .ivmem 0 s.blkSz

/-- R164: the counter block of index i. -/
def State.ctr (s : State) (i : Nat) : ByteString := addbe s.iv (i + s.plat.ctrBase.val)

/-- R203: the index a block step takes: any pending one where the order is free (the choice is a free value, log 9), the
least one otherwise. -/
def State.nextIndex (s : State) (d : Dir) (m : Mode) : Nat :=
  if freeOrder d m then s.pending.getD (s.pick % s.pending.length) 0 else s.pending.min?.getD 0

/-- The choice of R203 is used up where there was one to make. -/
def State.choose (s : State) (d : Dir) (m : Mode) : State := if freeOrder d m then s.dropPick else s

/-- R13, R66: every address a step of the command forms after PAD or CHECK lies inside its space, and every TAIL byte it
reads is one that PAD wrote. -/
def State.spacesHold (s : State) (d : Dir) (m : Mode) : Bool :=
  decide (s.blkSz ≤ ivCap) && decide (s.inlen.toNat ≤ s.cap) &&
    match d with
    | .enc => decide (s.seedOff m + s.nblk * s.blkSz ≤ s.outCap) &&
        decide (s.nblk * s.blkSz ≤ s.inlen.toNat + s.padlen) && decide (s.padlen ≤ s.tail.length)
    | .dec => decide (s.seedOff m + s.nblk * s.blkSz ≤ s.cap) && decide (s.nblk * s.blkSz ≤ s.outCap)

/-- The operands of a block step exist: every pending index is below NBLK (R34), and FB holds a block where the rule reads
it (R36). -/
def State.blockHolds (s : State) (d : Dir) (m : Mode) : Bool :=
  s.spacesHold d m && s.pending.all (fun i => decide (i < s.nblk)) &&
    (!usesFb d m || decide (s.fb.length = s.blkSz))

end Sys2Proof.Machine
end

