-- ==== Sys2Proof/Machine/Padding.lean ====
section
/-!
DEFINITION. The padding unit: the PAD step (R120 to R124) and the UNPAD step (R125 to R130).
-/

namespace Sys2Proof.Machine

/-- R121 to R124: PADLEN for a message of `n` bytes. -/
def padLen (p : PadScheme) (b n : Nat) : Nat :=
  match p with
  | .zeros => if n % b = 0 then 0 else b - n % b
  | .pkcs7 | .ansix923 | .iso10126 => b - n % b

/-- R124: how many random bytes the scheme draws for a pad of `len` bytes. -/
def padDraws (p : PadScheme) (len : Nat) : Nat :=
  match p with
  | .iso10126 => len - 1
  | .zeros | .pkcs7 | .ansix923 => 0

/-- R121 to R124: TAIL[0 .. PADLEN), `drawn` being the bytes ISO10126 draws. The pad count is PADLEN as an unsigned byte
(D31). -/
def padBytes (p : PadScheme) (len : Nat) (drawn : ByteString) : ByteString :=
  match p with
  | .zeros => List.replicate len 0
  | .pkcs7 => List.replicate len (BitVec.ofNat 8 len)
  | .ansix923 => List.replicate (len - 1) 0 ++ [BitVec.ofNat 8 len]
  | .iso10126 => drawn ++ [BitVec.ofNat 8 len]

/-- R120: the PAD step. TAIL bytes at and after PADLEN keep what they held. -/
def State.padStep (s : State) (p : PadScheme) : State :=
  let len := padLen p s.blkSz s.inlen.toNat
  let draws := padDraws p len
  { s.drop draws with
    padlen := len
    tail := padBytes p len (s.rndBytes draws) ++ s.tail.drop len
    nblk := (s.inlen.toNat + len) / s.blkSz
    phase := .init }

/-- R126: the largest length, at most `n`, that is 0 or ends in a nonzero byte. -/
def stripZeros (t : Nat → Byte) : Nat → Nat
  | 0 => 0
  | n + 1 => if t n = 0 then stripZeros t n else n + 1

/-- R127 to R130: the counted schemes' validator over the last byte, none for PaddingError. -/
def stripCounted (b n : Nat) (t : Nat → Byte) : Option Nat :=
  if n = 0 then none
  else
    let p := (t (n - 1)).toNat
    if p = 0 ∨ b < p then none else some (n - p)

/-- R126 to R129: the length of the unpadded result, none for PaddingError. -/
def unpadLen (p : PadScheme) (b n : Nat) (t : Nat → Byte) : Option Nat :=
  match p with
  | .zeros => some (stripZeros t n)
  | .pkcs7 | .ansix923 | .iso10126 => stripCounted b n t

/-- R125: the UNPAD step. -/
def State.unpadStep (s : State) (p : PadScheme) : State :=
  match unpadLen p s.blkSz (s.nblk * s.blkSz) (s.byteAt .outbuf) with
  | some len => s.finish len
  | none => s.raise .padding

end Sys2Proof.Machine
end

