-- ==== Sys2Proof/Machine/Sequencer.lean ====
section
/-!
DEFINITION. The context sequencer: the CHECK, INIT, BLOCKS and COMBINE steps (R191, R199, R201, R202) and the run of one engine
step of a command in its phase (R200), over the command's own block rule.
-/

namespace Sys2Proof.Machine

/-- R191: the CHECK step of a legal command word. Conditions 2 to 4 of R192 are about illegal words, which
`State.illegalStep` takes. -/
def State.checkStep (s : State) (d : Dir) (m : Mode) : State :=
  if s.cbound = false then s.raise .configuration
  else if d = .dec ∧ s.inputBad m = true then s.raise .input
  else if s.ivBad m = true then s.raise .iv
  else
    match d with
    | .enc => { s with phase := .pad }
    | .dec =>
      { s with nblk := s.inlen.toNat / s.blkSz - (if m = .rd then 1 else 0), padlen := 0, phase := .init }

/-- R180: the seed step of ENC.RD. -/
def State.drawSeed (s : State) : State :=
  let seed := s.rndBytes s.blkSz
  ((s.drop s.blkSz).setFb seed).writeOut 0 seed

/-- R199: what the INIT step does to FB (and, in ENC.RD, to OUTBUF and the randomness port). -/
def State.loadFb (s : State) (d : Dir) (m : Mode) : State :=
  match d, m with
  | _, .ecb | _, .ctr | .dec, .cbc => s
  | .enc, .cbc | _, .pcbc | _, .cfb | _, .ofb => s.setFb s.iv
  | .enc, .rd => s.drawSeed
  -- R182: the seed step of DEC.RD
  | .dec, .rd => s.setFb (s.memRead .inbuf 0 s.blkSz)

/-- R199: the INIT step. -/
def State.initStep (s : State) (d : Dir) (m : Mode) : State :=
  { s.loadFb d m with pending := List.range s.nblk, phase := .blocks }

/-- R201: the closing BLOCKS step, when no index is pending. -/
def State.closeBlocks (s : State) (d : Dir) (m : Mode) : State :=
  match d with
  | .enc => s.finish (s.seedOff m + s.nblk * s.blkSz)
  | .dec =>
    if m = .cbc then { s with pending := List.range s.nblk, phase := .combine }
    else { s with phase := .unpad }

/-- R201: the BLOCKS step over the block rule of the command: `rule i s` is the state after the rule's writes, or none
where its cipher request is answered `fail` (R224). -/
def State.blocksStep (s : State) (d : Dir) (m : Mode) (rule : Nat → State → Option State) : State :=
  if s.pending = [] then s.closeBlocks d m
  else
    let i := s.nextIndex d m
    match rule i (s.choose d m) with
    | some t => t.retire i
    | none => (s.choose d m).raise .cipher

/-- R144: the combine rule of DEC.CBC for index i. -/
def State.combineBlock (s : State) (i : Nat) : State :=
  let v := if i = 0 then s.iv else s.cBlk .cbc (i - 1)
  s.putBlk .dec .cbc i (xor (s.getBlk i) v)

/-- R202: the COMBINE step. -/
def State.combineStep (s : State) : State :=
  if s.pending = [] then { s with phase := .unpad }
  else
    let i := s.pending.min?.getD 0
    (s.combineBlock i).retire i

/-- R200: one engine step of the command `i`, whose block rule is `rule`, in the phase the engine is in. In IDLE the command
is presented to the idle engine, which accepts its word (R190). A phase R200 gives the command no transition from is
refused (log 12), operands that do not exist are a fault (log 11). -/
def operate (i : Instr) (rule : Nat → State → Option State) (s : State) : Host.Outcome State Fault Refusal :=
  match s.phase with
  | .idle => .next (s.accept (encode i))
  | .check => .next (s.checkStep i.dir i.mode)
  | .pad => if i.dir = .enc then .next (s.padStep i.pad) else .refused .noTransition
  | .init =>
    if s.spacesHold i.dir i.mode = true then .next (s.initStep i.dir i.mode) else .fault .operandOutsideSpace
  | .blocks =>
    if s.blockHolds i.dir i.mode = true then .next (s.blocksStep i.dir i.mode rule) else .fault .operandOutsideSpace
  | .combine =>
    if i.dir = .dec ∧ i.mode = .cbc then
      if s.blockHolds i.dir i.mode = true then .next s.combineStep else .fault .operandOutsideSpace
    else .refused .noTransition
  | .unpad =>
    if i.dir = .dec then
      if s.spacesHold i.dir i.mode = true then .next (s.unpadStep i.pad) else .fault .operandOutsideSpace
    else .refused .noTransition

/-- R97, R220: the engine step of an illegal command word: its CHECK step raises ConfigurationError. -/
def State.illegalStep (s : State) : Host.Outcome State Fault Refusal :=
  match s.phase with
  | .check => .next (s.raise .configuration)
  | .idle | .pad | .init | .blocks | .combine | .unpad => .refused .noTransition

end Sys2Proof.Machine
end

