-- ==== Sys2Proof/Machine/Block.lean ====
section
/-!
DEFINITION. The block-chaining modes of 41_modes_block.md: the block rules of ENC.ECB, DEC.ECB, ENC.CBC, DEC.CBC, ENC.PCBC and
DEC.PCBC, and the six commands. Each rule answers none where its cipher request fails.
-/

namespace Sys2Proof.Machine

/-- R140. -/
def encEcbBlock (i : Nat) (s : State) : Option State :=
  (s.cipherEnc (s.pBlk i)).map fun c => s.putBlk .enc .ecb i c

/-- R141. -/
def decEcbBlock (i : Nat) (s : State) : Option State :=
  (s.cipherDec (s.cBlk .ecb i)).map fun p => s.putBlk .dec .ecb i p

/-- R142. -/
def encCbcBlock (i : Nat) (s : State) : Option State :=
  (s.cipherEnc (xor (s.pBlk i) s.fb)).map fun c => (s.putBlk .enc .cbc i c).setFb c

/-- R143: the raw decrypt of the first phase; the combine is R144, `State.combineBlock`. -/
def decCbcBlock (i : Nat) (s : State) : Option State :=
  (s.cipherDec (s.cBlk .cbc i)).map fun y => s.putBlk .dec .cbc i y

/-- R145. -/
def encPcbcBlock (i : Nat) (s : State) : Option State :=
  (s.cipherEnc (xor (s.pBlk i) s.fb)).map fun c =>
    (s.putBlk .enc .pcbc i c).setFb (xor (s.pBlk i) c)

/-- R146. -/
def decPcbcBlock (i : Nat) (s : State) : Option State :=
  (s.cipherDec (s.cBlk .pcbc i)).map fun y =>
    (s.putBlk .dec .pcbc i (xor y s.fb)).setFb (xor (xor y s.fb) (s.cBlk .pcbc i))

/-- ENC.ECB, R140. -/
def execEncEcb (opt : BitVec 4) (pad : PadScheme) (s : State) : Host.Outcome State Fault Refusal :=
  operate (.encEcb opt pad) encEcbBlock s

/-- DEC.ECB, R141. -/
def execDecEcb (opt : BitVec 4) (pad : PadScheme) (s : State) : Host.Outcome State Fault Refusal :=
  operate (.decEcb opt pad) decEcbBlock s

/-- ENC.CBC, R142. -/
def execEncCbc (opt : BitVec 4) (pad : PadScheme) (s : State) : Host.Outcome State Fault Refusal :=
  operate (.encCbc opt pad) encCbcBlock s

/-- DEC.CBC, R143 and R144. -/
def execDecCbc (opt : BitVec 4) (pad : PadScheme) (s : State) : Host.Outcome State Fault Refusal :=
  operate (.decCbc opt pad) decCbcBlock s

/-- ENC.PCBC, R145. -/
def execEncPcbc (opt : BitVec 4) (pad : PadScheme) (s : State) : Host.Outcome State Fault Refusal :=
  operate (.encPcbc opt pad) encPcbcBlock s

/-- DEC.PCBC, R146. -/
def execDecPcbc (opt : BitVec 4) (pad : PadScheme) (s : State) : Host.Outcome State Fault Refusal :=
  operate (.decPcbc opt pad) decPcbcBlock s

end Sys2Proof.Machine
end

