-- ==== Sys2Proof/Machine/Delta.lean ====
section
/-!
DEFINITION. The RandomDelta mode of 43_mode_randomdelta.md: the block rules of ENC.RD and DEC.RD and the two commands. The seed
steps R180 and R182 are in the INIT step.
-/

namespace Sys2Proof.Machine

/-- R181. -/
def encRdBlock (i : Nat) (s : State) : Option State :=
  (s.cipherEnc (xor (s.pBlk i) s.fb)).map fun c => (s.putBlk .enc .rd i c).setFb (xor s.fb c)

/-- R183: the delta update uses the raw ciphertext block. -/
def decRdBlock (i : Nat) (s : State) : Option State :=
  (s.cipherDec (s.cBlk .rd i)).map fun y =>
    (s.putBlk .dec .rd i (xor y s.fb)).setFb (xor s.fb (s.cBlk .rd i))

/-- ENC.RD, R181. -/
def execEncRd (opt : BitVec 4) (pad : PadScheme) (s : State) : Host.Outcome State Fault Refusal :=
  operate (.encRd opt pad) encRdBlock s

/-- DEC.RD, R183. -/
def execDecRd (opt : BitVec 4) (pad : PadScheme) (s : State) : Host.Outcome State Fault Refusal :=
  operate (.decRd opt pad) decRdBlock s

end Sys2Proof.Machine
end

