-- ==== Sys2Proof/Machine/Stream.lean ====
section
/-!
DEFINITION. The keystream modes of 42_modes_stream.md: the block rules of ENC.CFB, DEC.CFB, ENC.OFB, DEC.OFB, ENC.CTR and
DEC.CTR, and the six commands. Both directions call `CipherEnc` and never `CipherDec`.
-/

namespace Sys2Proof.Machine

/-- R160. -/
def encCfbBlock (i : Nat) (s : State) : Option State :=
  (s.cipherEnc s.fb).map fun k =>
    (s.putBlk .enc .cfb i (xor (s.pBlk i) k)).setFb (xor (s.pBlk i) k)

/-- R161: FB is loaded with the received ciphertext block. -/
def decCfbBlock (i : Nat) (s : State) : Option State :=
  (s.cipherEnc s.fb).map fun k =>
    (s.putBlk .dec .cfb i (xor (s.cBlk .cfb i) k)).setFb (s.cBlk .cfb i)

/-- R162: FB is updated before the XOR. -/
def encOfbBlock (i : Nat) (s : State) : Option State :=
  (s.cipherEnc s.fb).map fun k => (s.putBlk .enc .ofb i (xor (s.pBlk i) k)).setFb k

/-- R163. -/
def decOfbBlock (i : Nat) (s : State) : Option State :=
  (s.cipherEnc s.fb).map fun k => (s.putBlk .dec .ofb i (xor (s.cBlk .ofb i) k)).setFb k

/-- R165. -/
def encCtrBlock (i : Nat) (s : State) : Option State :=
  (s.cipherEnc (s.ctr i)).map fun k => s.putBlk .enc .ctr i (xor (s.pBlk i) k)

/-- R166. -/
def decCtrBlock (i : Nat) (s : State) : Option State :=
  (s.cipherEnc (s.ctr i)).map fun k => s.putBlk .dec .ctr i (xor (s.cBlk .ctr i) k)

/-- ENC.CFB, R160. -/
def execEncCfb (opt : BitVec 4) (pad : PadScheme) (s : State) : Host.Outcome State Fault Refusal :=
  operate (.encCfb opt pad) encCfbBlock s

/-- DEC.CFB, R161. -/
def execDecCfb (opt : BitVec 4) (pad : PadScheme) (s : State) : Host.Outcome State Fault Refusal :=
  operate (.decCfb opt pad) decCfbBlock s

/-- ENC.OFB, R162. -/
def execEncOfb (opt : BitVec 4) (pad : PadScheme) (s : State) : Host.Outcome State Fault Refusal :=
  operate (.encOfb opt pad) encOfbBlock s

/-- DEC.OFB, R163. -/
def execDecOfb (opt : BitVec 4) (pad : PadScheme) (s : State) : Host.Outcome State Fault Refusal :=
  operate (.decOfb opt pad) decOfbBlock s

/-- ENC.CTR, R165. -/
def execEncCtr (opt : BitVec 4) (pad : PadScheme) (s : State) : Host.Outcome State Fault Refusal :=
  operate (.encCtr opt pad) encCtrBlock s

/-- DEC.CTR, R166. -/
def execDecCtr (opt : BitVec 4) (pad : PadScheme) (s : State) : Host.Outcome State Fault Refusal :=
  operate (.decCtr opt pad) decCtrBlock s

end Sys2Proof.Machine
end

