-- ==== Sys2Proof/Machine/Dispatch.lean ====
section
/-! DEFINITION. One arm per command (R96): an engine step of the command in the phase the engine is in. -/

namespace Sys2Proof.Machine

def exec (i : Instr) (s : State) : Host.Outcome State Fault Refusal :=
  match i with
  | .encEcb opt pad => Sys2Proof.Machine.execEncEcb opt pad s
  | .encCbc opt pad => Sys2Proof.Machine.execEncCbc opt pad s
  | .encPcbc opt pad => Sys2Proof.Machine.execEncPcbc opt pad s
  | .encCfb opt pad => Sys2Proof.Machine.execEncCfb opt pad s
  | .encOfb opt pad => Sys2Proof.Machine.execEncOfb opt pad s
  | .encCtr opt pad => Sys2Proof.Machine.execEncCtr opt pad s
  | .encRd opt pad => Sys2Proof.Machine.execEncRd opt pad s
  | .decEcb opt pad => Sys2Proof.Machine.execDecEcb opt pad s
  | .decCbc opt pad => Sys2Proof.Machine.execDecCbc opt pad s
  | .decPcbc opt pad => Sys2Proof.Machine.execDecPcbc opt pad s
  | .decCfb opt pad => Sys2Proof.Machine.execDecCfb opt pad s
  | .decOfb opt pad => Sys2Proof.Machine.execDecOfb opt pad s
  | .decCtr opt pad => Sys2Proof.Machine.execDecCtr opt pad s
  | .decRd opt pad => Sys2Proof.Machine.execDecRd opt pad s

end Sys2Proof.Machine
end

