-- ==== Sys2Proof/Machine/HostOps.lean ====
section
/-!
DEFINITION. The moves of the host and the platform: the four host operations (R70 to R73), attaching a cipher and setting its
keys (R242, R252, R260, U4, U8), and the reset input (R250).
-/

namespace Sys2Proof.Machine

/-- R70: the value `HostReadReg(n)` returns. Registers narrower than 32 bits read with zeros above their width (R21). -/
def State.readReg (s : State) (n : Fin 8) : BitVec 32 :=
  match n with
  | 0 => 0
  | 1 => s.statusWord.setWidth 32
  | 2 => s.ctx.setWidth 32
  | 3 => BitVec.ofNat 32 s.blkSz
  | 4 => s.inlen
  | 5 => s.outlen
  | 6 => s.ivlen.setWidth 32
  | 7 => 0

/-- R71: `HostWriteReg(n, v)`. -/
def State.writeReg (s : State) (n : Fin 8) (v : BitVec 32) : State :=
  match n with
  | 0 => if s.busy then s else s.accept (v.setWidth 16)
  | 4 => if s.busy = false ∧ v.toNat ≤ s.cap then { s with inlen := v } else s
  | 6 => if s.busy = false ∧ v.toNat ≤ ivCap then { s with ivlen := v.setWidth 9 } else s
  | 1 | 2 | 3 | 5 | 7 => s

/-- R72: `HostWriteByte(SPACE, a, v)`. -/
def State.writeByte (s : State) (sp : Space) (a : Nat) (v : Byte) : State :=
  match sp with
  | .inbuf => if s.busy = false ∧ a < s.cap then { s with inbuf := s.inbuf.set a v } else s
  | .ivmem => if s.busy = false ∧ a < ivCap then { s with ivmem := s.ivmem.set a v } else s
  | .outbuf => s

/-- R73: whether `HostReadByte(SPACE, a)` returns the byte of the space; in every other case it returns an unspecified
byte. -/
def State.readable (s : State) (sp : Space) (a : Nat) : Bool :=
  match sp with
  | .inbuf => decide (a < s.cap)
  | .ivmem => decide (a < ivCap)
  | .outbuf => s.done && decide (s.err = 0) && decide (a < s.outlen.toNat)

/-- R73: the byte `HostReadByte(SPACE, a)` returns; an unspecified one is free and fresh at each read (log 10). -/
def State.readByte (s : State) (sp : Space) (a : Nat) : Byte :=
  if s.readable sp a then s.byteAt sp a else Config.hostByte s.free.reads

/-- An unspecified byte has been returned (the model's own counter; R73 changes no state of the spec's). -/
def State.countRead (s : State) (sp : Space) (a : Nat) : State :=
  if s.readable sp a then s else { s with free := { s.free with reads := s.free.reads + 1 } }

/-- The host keeps the answer of a read. -/
def State.see (s : State) (x : HostAnswer) : State := { s with host := { s.host with seen := s.host.seen ++ [x] } }

/-- The host's first pending move is taken. -/
def State.popMove (s : State) : State := { s with host := { s.host with todo := s.host.todo.tail } }

/-- The platform's cipher is `c`. -/
def State.setCipher (s : State) (c : Option Cipher) : State := { s with plat := { s.plat with cipher := c } }

/-- R252 step 1: a cipher is attached, replaced or detached, outside an operation (R260, U4), of a legal size (U8). -/
def State.attach (s : State) (c : Option Cipher) : Host.Outcome State Fault Refusal :=
  if s.busy then .refused .keyChangeWhileBusy
  else if c.all Cipher.wellFormed then .next (s.setCipher c)
  else .refused .blockSizeOutOfRange

/-- R242: `SetEncryptionKey` on the attached cipher, outside an operation. R242 says that the two calls change E and D, not
which call changes which: this one sets E and keeps D (DESIGN CHOICE, log 16). With none attached the engine sees nothing
of it (log 13). -/
def State.setEncryptionKey (s : State) (f : PortFn) : Host.Outcome State Fault Refusal :=
  if s.busy then .refused .keyChangeWhileBusy
  else .next (s.setCipher (s.plat.cipher.map fun c => { c with enc := f }))

/-- R242: `SetDecryptionKey` on the attached cipher, outside an operation: it sets D and keeps E (DESIGN CHOICE, log 16). -/
def State.setDecryptionKey (s : State) (f : PortFn) : Host.Outcome State Fault Refusal :=
  if s.busy then .refused .keyChangeWhileBusy
  else .next (s.setCipher (s.plat.cipher.map fun c => { c with dec := f }))

end Sys2Proof.Machine
end

