-- ==== Sys2Proof/Machine/Turn.lean ====
section
/-!
DEFINITION. Whose turn it is (R16, R74): the engine's step (R14), and the first pending move of the host.
-/

namespace Sys2Proof.Machine

/-- R77, R99: the engine step of the command word in CTX. -/
def runCommand (s : State) : Host.Outcome State Fault Refusal :=
  match decode s.ctx with
  | .ok i => exec i s
  | .error _ => s.illegalStep

/-- R16, R190: the engine takes steps while STATUS.BUSY = 1; an idle engine keeps its state (R237). -/
def engineTurn (s : State) : Host.Outcome State Fault Refusal :=
  if s.busy then runCommand s else .next s

/-- One move of the host or the platform, in a state from which it has been taken off the pending list. -/
def hostTurn (m : HostMove) (s : State) : Host.Outcome State Fault Refusal :=
  match m with
  | .readReg n => .next (s.see (.reg n (s.readReg n)))
  | .writeReg n v => .next (s.writeReg n v)
  | .readByte sp a => .next ((s.countRead sp a).see (.byte sp a (s.readByte sp a)))
  | .writeByte sp a v => .next (s.writeByte sp a v)
  -- R101: the poll that ends WAIT; the polls before it are the engine turns of `turn`
  | .wait => .next (s.see (.reg 1 (s.readReg 1)))
  | .engine => engineTurn s
  | .reset => .next s.assertReset
  | .attach c => s.attach c
  | .setEncryptionKey f => s.setEncryptionKey f
  | .setDecryptionKey f => s.setDecryptionKey f

/-- One atomic event (R74): the host's first pending move, or an engine step when the host has none or waits (R101). -/
def turn (s : State) : Host.Outcome State Fault Refusal :=
  match s.host.todo with
  | [] => engineTurn s
  | m :: _ => if m = .wait ∧ s.busy = true then engineTurn s else hostTurn m s.popMove

end Sys2Proof.Machine
end

