-- ==== Sys2Proof/Machine/Step.lean ====
section
/-! DEFINITION. The step, and how the host's check places one instruction to run next (log 14). -/

namespace Sys2Proof.Machine

/-- R14, R74: one atomic event. -/
def step (s : State) : Host.Outcome State Fault Refusal := turn s

/-- The instruction of a table word stands where the step fetches it: in CTX, just accepted, the engine to move next. -/
def State.withFetchWord (s : State) (nbits w : Nat) : State := s.place (tableWord nbits w)

end Sys2Proof.Machine
end

