-- ==== Sys2Proof/Machine/Closed.lean ====
section
/-!
DEFINITION. The result of an operation in closed form (R205): ciphertext block i as a function of the plaintext blocks and
plaintext block i as a function of the ciphertext blocks, for a cipher that never fails. `e` and `d` are E and D; `iv` is
the IV, `seed` the RandomDelta seed, `base` is CTR_BASE. No step of the machine uses these; claims compare the machine
with them.
-/

namespace Sys2Proof.Machine

/-- R205, CBC: C[i] = E(P[i] ^ C[i-1]), C[-1] = iv. -/
def Closed.cbcC (e : ByteString → ByteString) (iv : ByteString) (p : Nat → ByteString) : Nat → ByteString
  | 0 => e (xor (p 0) iv)
  | i + 1 => e (xor (p (i + 1)) (Closed.cbcC e iv p i))

/-- R205, PCBC: G[0] = iv, G[i+1] = P[i] ^ C[i]. -/
def Closed.pcbcG (e : ByteString → ByteString) (iv : ByteString) (p : Nat → ByteString) : Nat → ByteString
  | 0 => iv
  | i + 1 => xor (p i) (e (xor (p i) (Closed.pcbcG e iv p i)))

/-- R205, CFB: C[i] = P[i] ^ E(C[i-1]), C[-1] = iv. -/
def Closed.cfbC (e : ByteString → ByteString) (iv : ByteString) (p : Nat → ByteString) : Nat → ByteString
  | 0 => xor (p 0) (e iv)
  | i + 1 => xor (p (i + 1)) (e (Closed.cfbC e iv p i))

/-- R205, OFB: F[-1] = iv, F[i] = E(F[i-1]). -/
def Closed.ofbF (e : ByteString → ByteString) (iv : ByteString) : Nat → ByteString
  | 0 => e iv
  | i + 1 => e (Closed.ofbF e iv i)

/-- R205, RandomDelta on ENC: d[0] = s, d[i+1] = d[i] ^ C[i] with C[i] = E(P[i] ^ d[i]). -/
def Closed.rdD (e : ByteString → ByteString) (seed : ByteString) (p : Nat → ByteString) : Nat → ByteString
  | 0 => seed
  | i + 1 => xor (Closed.rdD e seed p i) (e (xor (p i) (Closed.rdD e seed p i)))

/-- R205, ENC: C[i] in each mode. -/
def Closed.encBlock (m : Mode) (e : ByteString → ByteString) (iv seed : ByteString) (base : Nat) (p : Nat → ByteString)
    (i : Nat) : ByteString :=
  match m with
  | .ecb => e (p i)
  | .cbc => Closed.cbcC e iv p i
  | .pcbc => e (xor (p i) (Closed.pcbcG e iv p i))
  | .cfb => Closed.cfbC e iv p i
  | .ofb => xor (p i) (Closed.ofbF e iv i)
  | .ctr => xor (p i) (e (addbe iv (i + base)))
  | .rd => e (xor (p i) (Closed.rdD e seed p i))

/-- R205, PCBC on DEC: G[0] = iv, G[i+1] = P[i] ^ C[i] with P[i] = D(C[i]) ^ G[i]. -/
def Closed.pcbcDecG (d : ByteString → ByteString) (iv : ByteString) (c : Nat → ByteString) : Nat → ByteString
  | 0 => iv
  | i + 1 => xor (xor (d (c i)) (Closed.pcbcDecG d iv c i)) (c i)

/-- R205, RandomDelta on DEC: d[0] = s, d[i+1] = d[i] ^ C[i]. -/
def Closed.rdDecD (seed : ByteString) (c : Nat → ByteString) : Nat → ByteString
  | 0 => seed
  | i + 1 => xor (Closed.rdDecD seed c i) (c i)

/-- C[i-1], with C[-1] = iv. -/
def Closed.prev (iv : ByteString) (c : Nat → ByteString) : Nat → ByteString
  | 0 => iv
  | i + 1 => c i

/-- R205, DEC: P[i] in each mode. -/
def Closed.decBlock (m : Mode) (e d : ByteString → ByteString) (iv seed : ByteString) (base : Nat)
    (c : Nat → ByteString) (i : Nat) : ByteString :=
  match m with
  | .ecb => d (c i)
  | .cbc => xor (d (c i)) (Closed.prev iv c i)
  | .pcbc => xor (d (c i)) (Closed.pcbcDecG d iv c i)
  | .cfb => xor (c i) (e (Closed.prev iv c i))
  | .ofb => xor (c i) (Closed.ofbF e iv i)
  | .ctr => xor (c i) (e (addbe iv (i + base)))
  | .rd => xor (d (c i)) (Closed.rdDecD seed c i)

end Sys2Proof.Machine
end

