-- ==== Sys2Proof/Safety.lean ====
section
/-!
DEFINITION. What claims are stated in: the invariant of every reachable state, when a block step runs its rule and what it
then does, which bytes an engine step stores to, and the start of an operation.
-/

namespace Sys2Proof.Machine

/-- What holds of the operation in progress once CHECK has passed: the checks' conditions (R192, R194), NBLK, PADLEN and
TAIL as PAD or CHECK left them (R33, R35), and the phase one that R200 gives the command. -/
structure State.OperationInv (s : State) (i : Instr) : Prop where
  bound : s.cbound = true
  ivFits : s.ivBad i.mode = false
  /-- R33, R35: an ENC operation in or after INIT has a padded message of NBLK whole blocks. -/
  encSized : i.dir = .enc → s.phase ≠ .pad →
    s.nblk * s.blkSz = s.inlen.toNat + s.padlen ∧ s.padlen ≤ s.blkSz ∧ s.padlen ≤ s.tail.length
  /-- R33: a DEC operation has a content of NBLK whole blocks after the seed. -/
  decSized : i.dir = .dec → s.inlen.toNat = s.seedOff i.mode + s.nblk * s.blkSz ∧ s.padlen = 0
  /-- R200: PAD is an ENC phase, UNPAD a DEC phase, COMBINE a phase of DEC.CBC. -/
  padPhase : s.phase = .pad → i.dir = .enc
  unpadPhase : s.phase = .unpad → i.dir = .dec
  combinePhase : s.phase = .combine → i.dir = .dec ∧ i.mode = .cbc
  /-- R34: in BLOCKS and COMBINE every pending index is below NBLK. -/
  pendingBelow : s.phase = .blocks ∨ s.phase = .combine → ∀ k ∈ s.pending, k < s.nblk
  /-- R36: in BLOCKS the feedback register holds a block where the rule reads it. -/
  feedback : s.phase = .blocks → usesFb i.dir i.mode = true → s.fb.length = s.blkSz

/-- The invariant: what R6, R23, R26 to R28, R32 to R36, R66 and the sequencer's own order say of every state a run from
reset reaches. -/
structure State.Inv (s : State) : Prop where
  /-- R6. -/
  platform : s.plat.wellFormed = true
  /-- The canonical form of the three memories, every address inside its space (R66). -/
  inbufForm : Memory.wf s.cap s.inbuf = true
  outbufForm : Memory.wf s.outCap s.outbuf = true
  ivmemForm : Memory.wf ivCap s.ivmem = true
  /-- R26, R27, R28. -/
  inlenBound : s.inlen.toNat ≤ s.cap
  outlenBound : s.outlen.toNat ≤ s.outCap
  ivlenBound : s.ivlen.toNat ≤ ivCap
  /-- R32: PHASE is IDLE exactly when BUSY = 0. -/
  idleIff : s.phase = .idle ↔ s.busy = false
  /-- R23: BUSY and DONE are never both 1. -/
  notBoth : ¬ (s.busy = true ∧ s.done = true)
  /-- R23: ERR is nonzero only when DONE = 1. -/
  errDone : s.err ≠ 0 → s.done = true
  /-- R233: ERR never holds 5 or 6. -/
  errCodes : s.err ≠ 5 ∧ s.err ≠ 6
  /-- R27: while BUSY = 1 OUTLEN reads 0. -/
  busyOutlen : s.busy = true → s.outlen = 0
  /-- R34: PENDING is a set, kept in rising order. -/
  pendingForm : s.pending.Pairwise (fun a b => a < b)
  /-- After CHECK, CTX holds a legal command word and the operation is set up. -/
  operation : s.phase ≠ .idle → s.phase ≠ .check → ∃ i, decode s.ctx = .ok i ∧ s.OperationInv i

/-- A BLOCKS step of the command runs its block rule: an index is pending and the operands exist. -/
def BlockReady (i : Instr) (s : State) : Prop :=
  s.phase = .blocks ∧ s.pending ≠ [] ∧ s.blockHolds i.dir i.mode = true

/-- What a block step for index `k` does and leaves unchanged: the block `v` is written at the address of OutBlk(k) (R69),
FB becomes `fb`, `k` leaves PENDING, nothing is drawn and nothing else changes, no STATUS field among them. -/
structure BlockEffect (i : Instr) (k : Nat) (v fb : ByteString) (s t : State) : Prop where
  written : ∀ a, t.byteAt .outbuf a =
    if s.outAddr i.dir i.mode k ≤ a ∧ a < s.outAddr i.dir i.mode k + s.blkSz then v.getD (a - s.outAddr i.dir i.mode k) 0
    else s.byteAt .outbuf a
  feedback : t.fb = fb
  retired : ∀ j, j ∈ t.pending ↔ j ∈ s.pending ∧ j ≠ k
  undrawn : t.free.rnd = s.free.rnd ∧ t.free.drawn = s.free.drawn ∧ t.free.epoch = s.free.epoch ∧
    t.free.reads = s.free.reads
  rest : t = { s with outbuf := t.outbuf, fb := t.fb, pending := t.pending, free := t.free }

/-- R203: a block step of the command may take any pending index: each is taken under some choice (log 9). -/
def TakesAny (d : Dir) (m : Mode) (s : State) : Prop :=
  ∀ j ∈ s.pending, ∃ picks, State.nextIndex { s with free := { s.free with picks := picks } } d m = j

/-- R224, R226: the step ends the operation in CipherError; OUTBUF becomes unspecified, nothing is drawn, nothing else
changes. -/
structure EndsInCipherError (s t : State) : Prop where
  code : t.err = 7
  ended : t.outlen = 0 ∧ t.done = true ∧ t.busy = false ∧ t.phase = .idle
  unspecified : ∀ a, t.outbuf.get? a = none
  undrawn : t.free.rnd = s.free.rnd ∧ t.free.drawn = s.free.drawn
  rest : t = { s with
    outlen := 0, err := 7, done := true, busy := false, phase := .idle, outbuf := t.outbuf, free := t.free }

/-- The one cipher request of a command's block rule for index `k` (R206): `CipherEnc` in every ENC rule and in DEC.CFB,
DEC.OFB and DEC.CTR, `CipherDec` in the others. -/
def blockRequest (i : Instr) (k : Nat) (s : State) : Option ByteString :=
  match i with
  | .encEcb _ _ => s.cipherEnc (s.pBlk k)
  | .encCbc _ _ | .encPcbc _ _ | .encRd _ _ => s.cipherEnc (xor (s.pBlk k) s.fb)
  | .encCfb _ _ | .encOfb _ _ | .decCfb _ _ | .decOfb _ _ => s.cipherEnc s.fb
  | .encCtr _ _ | .decCtr _ _ => s.cipherEnc (s.ctr k)
  | .decEcb _ _ => s.cipherDec (s.cBlk .ecb k)
  | .decCbc _ _ => s.cipherDec (s.cBlk .cbc k)
  | .decPcbc _ _ => s.cipherDec (s.cBlk .pcbc k)
  | .decRd _ _ => s.cipherDec (s.cBlk .rd k)

/-- The OUTBUF addresses an engine step of the command stores to when it does not end in an error: the seed block in INIT
of ENC.RD (R180), the block of the index taken in BLOCKS (R69) and in COMBINE (R144), nothing otherwise. -/
def storesAt (i : Instr) (s : State) (a : Nat) : Prop :=
  match s.phase with
  | .init => i.dir = .enc ∧ i.mode = .rd ∧ a < s.blkSz
  | .blocks => s.pending ≠ [] ∧ s.outAddr i.dir i.mode (s.nextIndex i.dir i.mode) ≤ a ∧
      a < s.outAddr i.dir i.mode (s.nextIndex i.dir i.mode) + s.blkSz
  | .combine => s.pending ≠ [] ∧ s.pending.min?.getD 0 * s.blkSz ≤ a ∧ a < s.pending.min?.getD 0 * s.blkSz + s.blkSz
  | .idle | .check | .pad | .unpad => False

/-- R200: the transitions of a command from phase to phase and when each is taken, an engine step each (the first row is its
acceptance). -/
def phaseStep (i : Instr) (s t : State) : Prop :=
  match s.phase, t.phase with
  | .idle, .check => True
  | .check, .idle => t.err = 1 ∨ t.err = 2 ∨ t.err = 3
  | .check, .pad => i.dir = .enc
  | .check, .init => i.dir = .dec
  | .pad, .init => i.dir = .enc
  | .init, .blocks => True
  | .blocks, .blocks => s.pending ≠ []
  | .blocks, .idle => (s.pending ≠ [] ∧ t.err = 7) ∨ (s.pending = [] ∧ i.dir = .enc ∧ t.err = 0)
  | .blocks, .combine => s.pending = [] ∧ i.dir = .dec ∧ i.mode = .cbc
  | .blocks, .unpad => s.pending = [] ∧ i.dir = .dec ∧ i.mode ≠ .cbc
  | .combine, .combine => s.pending ≠ [] ∧ i.dir = .dec ∧ i.mode = .cbc
  | .combine, .unpad => s.pending = [] ∧ i.dir = .dec ∧ i.mode = .cbc
  | .unpad, .idle => i.dir = .dec ∧ (t.err = 0 ∨ t.err = 4)
  | _, _ => False

/-- The engine is about to take the first step of an operation of the command `i`, in a state of the invariant, and the
host has no move pending. -/
structure AtStart (i : Instr) (s : State) : Prop where
  inv : s.Inv
  check : s.phase = .check
  word : s.ctx = encode i
  alone : s.host.todo = []

/-- R192 to R194: the CHECK step of the command passes. -/
def ChecksPass (i : Instr) (s : State) : Prop :=
  s.cbound = true ∧ (i.dir = .dec → s.inputBad i.mode = false) ∧ s.ivBad i.mode = false

/-- R225: an operation has ended without error. -/
def EndedWell (t : State) : Prop := t.phase = .idle ∧ t.busy = false ∧ t.done = true ∧ t.err = 0

/-- R33: NBLK of an ENC operation of the command started in `s`. -/
def encBlocks (i : Instr) (s : State) : Nat := (s.inlen.toNat + padLen i.pad s.blkSz s.inlen.toNat) / s.blkSz

/-- R205: P[k] of an ENC operation of the command started in `s`: block k of the message and its pad, whose random bytes
are the next ones the port yields. -/
def plainBlock (i : Instr) (s : State) (k : Nat) : ByteString :=
  let len := padLen i.pad s.blkSz s.inlen.toNat
  let pad := padBytes i.pad len (s.rndBytes (padDraws i.pad len))
  (List.range s.blkSz).map fun j =>
    if k * s.blkSz + j < s.inlen.toNat then s.byteAt .inbuf (k * s.blkSz + j)
    else pad.getD (k * s.blkSz + j - s.inlen.toNat) 0

/-- R205, D23: the seed an ENC.RD operation started in `s` draws, after the pad's bytes. -/
def encSeed (i : Instr) (s : State) : ByteString :=
  (List.range s.blkSz).map fun j => s.rndAt (padDraws i.pad (padLen i.pad s.blkSz s.inlen.toNat) + j)

/-- R33: NBLK of a DEC operation of the command started in `s`. -/
def decBlocks (i : Instr) (s : State) : Nat := s.inlen.toNat / s.blkSz - (if i.mode = .rd then 1 else 0)

/-- The machine takes `n` steps. -/
abbrev runs (n : Nat) (s t : State) : Prop := Host.Core.run Sys2Proof.core n s = .next t

end Sys2Proof.Machine
end

