-- ==== Sys2Proof/Certificates/Slice0/Obligations.lean ====
section
/-!
DEFINITION. The statements for the provers, each over all states of the machine (and so over all parameters of R6, which the
state holds). Where a clause rests on a choice of the model's, its docstring names the log entry.
-/

open Sys2Proof Sys2Proof.Machine

/-! ## Encoding -/

/-- R99: decoding an encoded command gives it back, with every OPT and PAD. -/
def Obligations.DecodeEncodeRoundTrip : Prop :=
  ∀ i : Instr, decode (encode i) = .ok i

/-- R96, R99: a word that decodes is OPC * 4096 + OPT * 256 + MODE * 16 + PAD of what it decodes to, and encodes back. -/
def Obligations.EncodeDecodeInverse : Prop :=
  ∀ (w : Word) (i : Instr), decode w = .ok i →
    encode i = w ∧
    w.toNat = (match i.dir with | .enc => 1 | .dec => 2) * 4096 + i.opt.toNat * 256 +
      (match i.mode with | .ecb => 0 | .cbc => 1 | .pcbc => 2 | .cfb => 3 | .ofb => 4 | .ctr => 5 | .rd => 6) * 16 +
      (match i.pad with | .zeros => 0 | .pkcs7 => 1 | .ansix923 => 2 | .iso10126 => 3)

/-- R97: a word is legal exactly when OPC is 1 or 2, MODE is 0 to 6 and PAD is 0 to 3. -/
def Obligations.DecodeRefusesExactlyIllegalWords : Prop :=
  ∀ w : Word, (∃ i, decode w = .ok i) ↔
    (w.toNat / 4096 = 1 ∨ w.toNat / 4096 = 2) ∧ w.toNat / 16 % 16 ≤ 6 ∧ w.toNat % 16 ≤ 3

/-- R96 and the words of 95_test_vectors.md V1, written out. -/
def Obligations.WrittenWordsDecode : Prop :=
  decode 0x1000 = .ok (.encEcb 0 .zeros) ∧ decode 0x1011 = .ok (.encCbc 0 .pkcs7) ∧
  decode 0x1022 = .ok (.encPcbc 0 .ansix923) ∧ decode 0x1033 = .ok (.encCfb 0 .iso10126) ∧
  decode 0x2041 = .ok (.decOfb 0 .pkcs7) ∧ decode 0x2052 = .ok (.decCtr 0 .ansix923) ∧
  decode 0x2963 = .ok (.decRd 9 .iso10126) ∧ decode 0x1F11 = .ok (.encCbc 15 .pkcs7) ∧
  decode 0x0000 = .error .unsupportedOpc ∧ decode 0x3011 = .error .unsupportedOpc ∧
  decode 0x1071 = .error .unsupportedMode ∧ decode 0x1014 = .error .unsupportedPad

/-! ## The step, and who moves -/

/-- R77: a step of the busy engine runs the command CTX decodes to. The three cases in which the step is the engine's, no host
move pending, the move named `engine`, and a pending WAIT, are the model's scheduling choice (DESIGN CHOICE, log 4). -/
def Obligations.StepRunsDecodedInstruction : Prop :=
  ∀ (s : State) (i : Instr), s.busy = true → decode s.ctx = .ok i →
    (s.host.todo = [] → step s = exec i s) ∧
    (s.host.todo.head? = some .engine → step s = exec i s.popMove) ∧
    (s.host.todo.head? = some .wait → step s = exec i s)

/-- R237, R101: an idle engine keeps its state until the host acts; a `WAIT` on it ends with the value of STATUS. That the host's
moves are a list and that WAIT keeps the answer of its last poll alone is the model's choice (DESIGN CHOICE, log 4). -/
def Obligations.IdleEngineWaits : Prop :=
  ∀ s : State, s.busy = false →
    (s.host.todo = [] → step s = .next s) ∧
    (∀ rest, s.host.todo = .wait :: rest →
      step s = .next { s with host := { todo := rest, seen := s.host.seen ++ [.reg 1 (s.statusWord.setWidth 32)] } })

/-- R190, R22: a host write to CMD is accepted by an idle engine, whatever the word, and dropped by a busy one. -/
def Obligations.CommandAcceptance : Prop :=
  ∀ (s : State) (v : BitVec 32) (rest : List HostMove), s.host.todo = .writeReg 0 v :: rest →
    (s.busy = false → step s = .next
      { s with
        ctx := v.extractLsb' 0 16, busy := true, done := false, err := 0, outlen := 0, phase := .check
        host := { s.host with todo := rest } }) ∧
    (s.busy = true → step s = .next { s with host := { s.host with todo := rest } })

/-- R190, the command presented to an idle engine: the model's form of it in exec (log 12). -/
def Obligations.ExecOnIdleEngineAccepts : Prop :=
  ∀ (i : Instr) (s : State), s.phase = .idle →
    ∃ t, exec i s = .next t ∧ decode t.ctx = .ok i ∧
      t = { s with ctx := t.ctx, busy := true, done := false, err := 0, outlen := 0, phase := .check }

/-! ## CHECK -/

/-- R191 to R194, R228: the outcome of the CHECK step of any command word, legal or not, by the fields of CTX as numbers;
R220 to R222, R98: each of its errors by its code. (No byte of OUTBUF listed is how the model holds R226's unspecified
bytes, log 5.) -/
def Obligations.CheckStepOutcome : Prop :=
  ∀ s : State, s.host.todo = [] → s.busy = true → s.phase = .check →
    let opc := s.ctx.toNat / 4096
    let mode := s.ctx.toNat / 16 % 16
    let pad := s.ctx.toNat % 16
    let len := s.inlen.toNat
    let needsIv := (1 ≤ mode ∧ mode ≤ 5) ∨ (mode = 6 ∧ s.plat.rdNeedsIv = true)
    (s.cbound = false ∨ 6 < mode ∨ 3 < pad ∨ (opc ≠ 1 ∧ opc ≠ 2) → step s = .next
        { s with outlen := 0, err := 1, done := true, busy := false, phase := .idle, outbuf := [] }) ∧
    (¬ (s.cbound = false ∨ 6 < mode ∨ 3 < pad ∨ (opc ≠ 1 ∧ opc ≠ 2)) →
      (opc = 2 ∧ (len % s.blkSz ≠ 0 ∨ (mode = 6 ∧ len < s.blkSz)) → step s = .next
        { s with outlen := 0, err := 2, done := true, busy := false, phase := .idle, outbuf := [] }) ∧
      (¬ (opc = 2 ∧ (len % s.blkSz ≠ 0 ∨ (mode = 6 ∧ len < s.blkSz))) →
        (needsIv ∧ s.ivlen.toNat ≠ s.blkSz → step s = .next
        { s with outlen := 0, err := 3, done := true, busy := false, phase := .idle, outbuf := [] }) ∧
        (¬ (needsIv ∧ s.ivlen.toNat ≠ s.blkSz) →
          (opc = 1 → step s = .next { s with phase := .pad }) ∧
          (opc = 2 → step s = .next
            { s with nblk := len / s.blkSz - (if mode = 6 then 1 else 0), padlen := 0, phase := .init }))))

/-- R226: what an error end does and leaves unchanged, in whatever step it occurs: a step of the busy engine, of a legal or an
illegal command word, that leaves the engine idle with an error code. -/
def Obligations.ErrorEndEffect : Prop :=
  ∀ s t : State, s.host.todo = [] → s.busy = true → s.phase ≠ .idle → step s = .next t → t.phase = .idle → t.err ≠ 0 →
    (t.err = 1 ∨ t.err = 2 ∨ t.err = 3 ∨ t.err = 4 ∨ t.err = 7) ∧
    t.outlen = 0 ∧ t.done = true ∧ t.busy = false ∧ (∀ a, t.outbuf.get? a = none) ∧
    t.free.rnd = s.free.rnd ∧ t.free.drawn = s.free.drawn ∧
    t = { s with
      outlen := 0, err := t.err, done := true, busy := false, phase := .idle, outbuf := t.outbuf, free := t.free }

/-! ## PAD (B is 1 to 255, which CHECK and R6 establish) -/

/-- R120, R121: PAD with Zeros. -/
def Obligations.PadStepZeros : Prop :=
  ∀ (i : Instr) (s : State), i.dir = .enc → i.pad = .zeros → s.phase = .pad → 1 ≤ s.blkSz → s.blkSz ≤ 255 →
    ∃ t, exec i s = .next t ∧
      t.padlen = (if s.inlen.toNat % s.blkSz = 0 then 0 else s.blkSz - s.inlen.toNat % s.blkSz) ∧
      t.nblk * s.blkSz = s.inlen.toNat + t.padlen ∧ t.phase = .init ∧
      (∀ k, k < t.padlen → t.tail[k]? = some 0) ∧
      t = { s with padlen := t.padlen, nblk := t.nblk, phase := .init, tail := t.tail }

/-- R120, R122: PAD with PKCS7. -/
def Obligations.PadStepPkcs7 : Prop :=
  ∀ (i : Instr) (s : State), i.dir = .enc → i.pad = .pkcs7 → s.phase = .pad → 1 ≤ s.blkSz → s.blkSz ≤ 255 →
    ∃ t, exec i s = .next t ∧
      t.padlen = s.blkSz - s.inlen.toNat % s.blkSz ∧ 1 ≤ t.padlen ∧ t.padlen ≤ s.blkSz ∧
      t.nblk * s.blkSz = s.inlen.toNat + t.padlen ∧ t.phase = .init ∧
      (∀ k, k < t.padlen → (t.tail[k]?.map BitVec.toNat) = some t.padlen) ∧
      t = { s with padlen := t.padlen, nblk := t.nblk, phase := .init, tail := t.tail }

/-- R120, R123: PAD with ANSIX923. -/
def Obligations.PadStepAnsix923 : Prop :=
  ∀ (i : Instr) (s : State), i.dir = .enc → i.pad = .ansix923 → s.phase = .pad → 1 ≤ s.blkSz → s.blkSz ≤ 255 →
    ∃ t, exec i s = .next t ∧
      t.padlen = s.blkSz - s.inlen.toNat % s.blkSz ∧ 1 ≤ t.padlen ∧ t.padlen ≤ s.blkSz ∧
      t.nblk * s.blkSz = s.inlen.toNat + t.padlen ∧ t.phase = .init ∧
      (∀ k, k + 1 < t.padlen → t.tail[k]? = some 0) ∧
      (t.tail[t.padlen - 1]?.map BitVec.toNat) = some t.padlen ∧
      t = { s with padlen := t.padlen, nblk := t.nblk, phase := .init, tail := t.tail }

/-- R120, R124: PAD with ISO10126: PADLEN - 1 bytes are drawn and fill TAIL in the order drawn. -/
def Obligations.PadStepIso10126 : Prop :=
  ∀ (i : Instr) (s : State), i.dir = .enc → i.pad = .iso10126 → s.phase = .pad → 1 ≤ s.blkSz → s.blkSz ≤ 255 →
    ∃ t, exec i s = .next t ∧
      t.padlen = s.blkSz - s.inlen.toNat % s.blkSz ∧ 1 ≤ t.padlen ∧ t.padlen ≤ s.blkSz ∧
      t.nblk * s.blkSz = s.inlen.toNat + t.padlen ∧ t.phase = .init ∧
      (∀ k, k + 1 < t.padlen → t.tail[k]? = some (s.rndAt k)) ∧
      (t.tail[t.padlen - 1]?.map BitVec.toNat) = some t.padlen ∧
      (∀ k, t.rndAt k = s.rndAt (t.padlen - 1 + k)) ∧ t.free.drawn = s.free.drawn + (t.padlen - 1) ∧
      t = { s with
        padlen := t.padlen, nblk := t.nblk, phase := .init, tail := t.tail
        free := { s.free with rnd := t.free.rnd, drawn := t.free.drawn } }

/-! ## INIT -/

/-- R199: INIT of every command but RandomDelta: FB is the IV in PCBC, CFB, OFB and ENC.CBC and is left alone in ECB, CTR
and DEC.CBC; every index below NBLK becomes pending. -/
def Obligations.InitStepLoadsFeedback : Prop :=
  ∀ (i : Instr) (s : State), i.mode ≠ .rd → s.phase = .init → s.spacesHold i.dir i.mode = true →
    ∃ t, exec i s = .next t ∧
      (i.mode = .pcbc ∨ i.mode = .cfb ∨ i.mode = .ofb ∨ (i.mode = .cbc ∧ i.dir = .enc) →
        t.fb.length = s.blkSz ∧ ∀ k, k < s.blkSz → t.fb[k]? = some (s.byteAt .ivmem k)) ∧
      (i.mode = .ecb ∨ i.mode = .ctr ∨ (i.mode = .cbc ∧ i.dir = .dec) → t.fb = s.fb) ∧
      (∀ k, k ∈ t.pending ↔ k < s.nblk) ∧
      t = { s with fb := t.fb, pending := t.pending, phase := .blocks }

/-- R180, R199: INIT of ENC.RD draws the seed, B bytes in the order drawn, into FB and OUTBUF[0 .. B). -/
def Obligations.InitStepDrawsSeed : Prop :=
  ∀ (opt : BitVec 4) (pad : PadScheme) (s : State), s.phase = .init → s.spacesHold .enc .rd = true →
    ∃ t, exec (.encRd opt pad) s = .next t ∧
      t.fb.length = s.blkSz ∧ (∀ k, k < s.blkSz → t.fb[k]? = some (s.rndAt k)) ∧
      (∀ a, t.byteAt .outbuf a = if a < s.blkSz then s.rndAt a else s.byteAt .outbuf a) ∧
      (∀ k, t.rndAt k = s.rndAt (s.blkSz + k)) ∧ t.free.drawn = s.free.drawn + s.blkSz ∧
      (∀ k, k ∈ t.pending ↔ k < s.nblk) ∧
      t = { s with
        fb := t.fb, outbuf := t.outbuf, pending := t.pending, phase := .blocks
        free := { s.free with rnd := t.free.rnd, drawn := t.free.drawn } }

/-- R182, R199: INIT of DEC.RD reads the seed from INBUF[0 .. B) into FB and draws nothing. -/
def Obligations.InitStepReadsSeed : Prop :=
  ∀ (opt : BitVec 4) (pad : PadScheme) (s : State), s.phase = .init → s.spacesHold .dec .rd = true →
    ∃ t, exec (.decRd opt pad) s = .next t ∧
      t.fb.length = s.blkSz ∧ (∀ k, k < s.blkSz → t.fb[k]? = some (s.byteAt .inbuf k)) ∧
      (∀ k, k ∈ t.pending ↔ k < s.nblk) ∧
      t = { s with fb := t.fb, pending := t.pending, phase := .blocks }

/-! ## The block steps, one statement per command: which index it takes (R203), the rule's result with its frame when the
cipher answers, and the end in CipherError when it does not (R224) -/

/-- R140: ENC.ECB, C = E(P); any pending index. -/
def Obligations.EncEcbBlockStep : Prop :=
  ∀ (opt : BitVec 4) (pad : PadScheme) (s : State), BlockReady (.encEcb opt pad) s →
    let k := s.nextIndex .enc .ecb
    k ∈ s.pending ∧ TakesAny .enc .ecb s ∧
    (∀ c, s.cipherEnc (s.pBlk k) = some c →
      ∃ t, exec (.encEcb opt pad) s = .next t ∧
        BlockEffect (.encEcb opt pad) k c s.fb s t) ∧
    (s.cipherEnc (s.pBlk k) = none → ∃ t, exec (.encEcb opt pad) s = .next t ∧ EndsInCipherError s t)

/-- R141: DEC.ECB, P = D(C); any pending index. -/
def Obligations.DecEcbBlockStep : Prop :=
  ∀ (opt : BitVec 4) (pad : PadScheme) (s : State), BlockReady (.decEcb opt pad) s →
    let k := s.nextIndex .dec .ecb
    k ∈ s.pending ∧ TakesAny .dec .ecb s ∧
    (∀ p, s.cipherDec (s.cBlk .ecb k) = some p →
      ∃ t, exec (.decEcb opt pad) s = .next t ∧
        BlockEffect (.decEcb opt pad) k p s.fb s t) ∧
    (s.cipherDec (s.cBlk .ecb k) = none → ∃ t, exec (.decEcb opt pad) s = .next t ∧ EndsInCipherError s t)

/-- R142: ENC.CBC, C = E(P ^ FB), FB becomes C; the least pending index. -/
def Obligations.EncCbcBlockStep : Prop :=
  ∀ (opt : BitVec 4) (pad : PadScheme) (s : State), BlockReady (.encCbc opt pad) s →
    let k := s.nextIndex .enc .cbc
    k ∈ s.pending ∧ (∀ j ∈ s.pending, k ≤ j) ∧
    (∀ c, s.cipherEnc (xor (s.pBlk k) s.fb) = some c →
      ∃ t, exec (.encCbc opt pad) s = .next t ∧
        BlockEffect (.encCbc opt pad) k c c s t) ∧
    (s.cipherEnc (xor (s.pBlk k) s.fb) = none → ∃ t, exec (.encCbc opt pad) s = .next t ∧ EndsInCipherError s t)

/-- R143: DEC.CBC, the raw decrypt Y = D(C); any pending index. -/
def Obligations.DecCbcRawBlockStep : Prop :=
  ∀ (opt : BitVec 4) (pad : PadScheme) (s : State), BlockReady (.decCbc opt pad) s →
    let k := s.nextIndex .dec .cbc
    k ∈ s.pending ∧ TakesAny .dec .cbc s ∧
    (∀ y, s.cipherDec (s.cBlk .cbc k) = some y →
      ∃ t, exec (.decCbc opt pad) s = .next t ∧
        BlockEffect (.decCbc opt pad) k y s.fb s t) ∧
    (s.cipherDec (s.cBlk .cbc k) = none → ∃ t, exec (.decCbc opt pad) s = .next t ∧ EndsInCipherError s t)

/-- R144, R202: DEC.CBC, the combine of the least pending index, and the end of the phase when none is pending. -/
def Obligations.DecCbcCombineStep : Prop :=
  ∀ (opt : BitVec 4) (pad : PadScheme) (s : State), s.phase = .combine → s.blockHolds .dec .cbc = true →
    (s.pending = [] → exec (.decCbc opt pad) s = .next { s with phase := .unpad }) ∧
    (∀ k, k ∈ s.pending → (∀ j ∈ s.pending, k ≤ j) →
      let v := if k = 0 then s.memRead .ivmem 0 s.blkSz else s.cBlk .cbc (k - 1)
      ∃ t, exec (.decCbc opt pad) s = .next t ∧
        BlockEffect (.decCbc opt pad) k (xor (s.memRead .outbuf (k * s.blkSz) s.blkSz) v) s.fb s t)

/-- R145: ENC.PCBC, C = E(P ^ FB), FB becomes P ^ C; the least pending index. -/
def Obligations.EncPcbcBlockStep : Prop :=
  ∀ (opt : BitVec 4) (pad : PadScheme) (s : State), BlockReady (.encPcbc opt pad) s →
    let k := s.nextIndex .enc .pcbc
    k ∈ s.pending ∧ (∀ j ∈ s.pending, k ≤ j) ∧
    (∀ c, s.cipherEnc (xor (s.pBlk k) s.fb) = some c →
      ∃ t, exec (.encPcbc opt pad) s = .next t ∧
        BlockEffect (.encPcbc opt pad) k c (xor (s.pBlk k) c) s t) ∧
    (s.cipherEnc (xor (s.pBlk k) s.fb) = none → ∃ t, exec (.encPcbc opt pad) s = .next t ∧ EndsInCipherError s t)

/-- R146: DEC.PCBC, P = D(C) ^ FB, FB becomes P ^ C; the least pending index. -/
def Obligations.DecPcbcBlockStep : Prop :=
  ∀ (opt : BitVec 4) (pad : PadScheme) (s : State), BlockReady (.decPcbc opt pad) s →
    let k := s.nextIndex .dec .pcbc
    k ∈ s.pending ∧ (∀ j ∈ s.pending, k ≤ j) ∧
    (∀ y, s.cipherDec (s.cBlk .pcbc k) = some y →
      ∃ t, exec (.decPcbc opt pad) s = .next t ∧
        BlockEffect (.decPcbc opt pad) k (xor y s.fb) (xor (xor y s.fb) (s.cBlk .pcbc k)) s t) ∧
    (s.cipherDec (s.cBlk .pcbc k) = none → ∃ t, exec (.decPcbc opt pad) s = .next t ∧ EndsInCipherError s t)

/-- R160: ENC.CFB, K = E(FB), C = P ^ K, FB becomes C; the least pending index. -/
def Obligations.EncCfbBlockStep : Prop :=
  ∀ (opt : BitVec 4) (pad : PadScheme) (s : State), BlockReady (.encCfb opt pad) s →
    let k := s.nextIndex .enc .cfb
    k ∈ s.pending ∧ (∀ j ∈ s.pending, k ≤ j) ∧
    (∀ y, s.cipherEnc s.fb = some y →
      ∃ t, exec (.encCfb opt pad) s = .next t ∧
        BlockEffect (.encCfb opt pad) k (xor (s.pBlk k) y) (xor (s.pBlk k) y) s t) ∧
    (s.cipherEnc s.fb = none → ∃ t, exec (.encCfb opt pad) s = .next t ∧ EndsInCipherError s t)

/-- R161: DEC.CFB, K = E(FB), P = C ^ K, FB becomes the received C; the least pending index. -/
def Obligations.DecCfbBlockStep : Prop :=
  ∀ (opt : BitVec 4) (pad : PadScheme) (s : State), BlockReady (.decCfb opt pad) s →
    let k := s.nextIndex .dec .cfb
    k ∈ s.pending ∧ (∀ j ∈ s.pending, k ≤ j) ∧
    (∀ y, s.cipherEnc s.fb = some y →
      ∃ t, exec (.decCfb opt pad) s = .next t ∧
        BlockEffect (.decCfb opt pad) k (xor (s.cBlk .cfb k) y) (s.cBlk .cfb k) s t) ∧
    (s.cipherEnc s.fb = none → ∃ t, exec (.decCfb opt pad) s = .next t ∧ EndsInCipherError s t)

/-- R162: ENC.OFB, FB becomes E(FB), C = P ^ the new FB; the least pending index. -/
def Obligations.EncOfbBlockStep : Prop :=
  ∀ (opt : BitVec 4) (pad : PadScheme) (s : State), BlockReady (.encOfb opt pad) s →
    let k := s.nextIndex .enc .ofb
    k ∈ s.pending ∧ (∀ j ∈ s.pending, k ≤ j) ∧
    (∀ y, s.cipherEnc s.fb = some y →
      ∃ t, exec (.encOfb opt pad) s = .next t ∧
        BlockEffect (.encOfb opt pad) k (xor (s.pBlk k) y) y s t) ∧
    (s.cipherEnc s.fb = none → ∃ t, exec (.encOfb opt pad) s = .next t ∧ EndsInCipherError s t)

/-- R163: DEC.OFB, FB becomes E(FB), P = C ^ the new FB; the least pending index. -/
def Obligations.DecOfbBlockStep : Prop :=
  ∀ (opt : BitVec 4) (pad : PadScheme) (s : State), BlockReady (.decOfb opt pad) s →
    let k := s.nextIndex .dec .ofb
    k ∈ s.pending ∧ (∀ j ∈ s.pending, k ≤ j) ∧
    (∀ y, s.cipherEnc s.fb = some y →
      ∃ t, exec (.decOfb opt pad) s = .next t ∧
        BlockEffect (.decOfb opt pad) k (xor (s.cBlk .ofb k) y) y s t) ∧
    (s.cipherEnc s.fb = none → ∃ t, exec (.decOfb opt pad) s = .next t ∧ EndsInCipherError s t)

/-- R165: ENC.CTR, C = P ^ E(Ctr(k)), FB is not used; any pending index. -/
def Obligations.EncCtrBlockStep : Prop :=
  ∀ (opt : BitVec 4) (pad : PadScheme) (s : State), BlockReady (.encCtr opt pad) s →
    let k := s.nextIndex .enc .ctr
    k ∈ s.pending ∧ TakesAny .enc .ctr s ∧
    (∀ y, s.cipherEnc (s.ctr k) = some y →
      ∃ t, exec (.encCtr opt pad) s = .next t ∧
        BlockEffect (.encCtr opt pad) k (xor (s.pBlk k) y) s.fb s t) ∧
    (s.cipherEnc (s.ctr k) = none → ∃ t, exec (.encCtr opt pad) s = .next t ∧ EndsInCipherError s t)

/-- R166: DEC.CTR, P = C ^ E(Ctr(k)); any pending index. -/
def Obligations.DecCtrBlockStep : Prop :=
  ∀ (opt : BitVec 4) (pad : PadScheme) (s : State), BlockReady (.decCtr opt pad) s →
    let k := s.nextIndex .dec .ctr
    k ∈ s.pending ∧ TakesAny .dec .ctr s ∧
    (∀ y, s.cipherEnc (s.ctr k) = some y →
      ∃ t, exec (.decCtr opt pad) s = .next t ∧
        BlockEffect (.decCtr opt pad) k (xor (s.cBlk .ctr k) y) s.fb s t) ∧
    (s.cipherEnc (s.ctr k) = none → ∃ t, exec (.decCtr opt pad) s = .next t ∧ EndsInCipherError s t)

/-- R181: ENC.RD, C = E(P ^ FB), FB becomes FB ^ C; the least pending index. -/
def Obligations.EncRdBlockStep : Prop :=
  ∀ (opt : BitVec 4) (pad : PadScheme) (s : State), BlockReady (.encRd opt pad) s →
    let k := s.nextIndex .enc .rd
    k ∈ s.pending ∧ (∀ j ∈ s.pending, k ≤ j) ∧
    (∀ c, s.cipherEnc (xor (s.pBlk k) s.fb) = some c →
      ∃ t, exec (.encRd opt pad) s = .next t ∧
        BlockEffect (.encRd opt pad) k c (xor s.fb c) s t) ∧
    (s.cipherEnc (xor (s.pBlk k) s.fb) = none → ∃ t, exec (.encRd opt pad) s = .next t ∧ EndsInCipherError s t)

/-- R183: DEC.RD, P = D(C) ^ FB, FB becomes FB ^ C; the least pending index. -/
def Obligations.DecRdBlockStep : Prop :=
  ∀ (opt : BitVec 4) (pad : PadScheme) (s : State), BlockReady (.decRd opt pad) s →
    let k := s.nextIndex .dec .rd
    k ∈ s.pending ∧ (∀ j ∈ s.pending, k ≤ j) ∧
    (∀ y, s.cipherDec (s.cBlk .rd k) = some y →
      ∃ t, exec (.decRd opt pad) s = .next t ∧
        BlockEffect (.decRd opt pad) k (xor y s.fb) (xor s.fb (s.cBlk .rd k)) s t) ∧
    (s.cipherDec (s.cBlk .rd k) = none → ∃ t, exec (.decRd opt pad) s = .next t ∧ EndsInCipherError s t)

/-! ## The end of BLOCKS -/

/-- R201, R225: the closing BLOCKS step of an ENC operation is its normal end. That OUTBUF at and beyond OUTLEN keeps what was
stored there is the model's choice (DESIGN CHOICE, log 15). -/
def Obligations.EncClosingStep : Prop :=
  ∀ (i : Instr) (s : State), i.dir = .enc → s.phase = .blocks → s.pending = [] → s.blockHolds i.dir i.mode = true →
    s.plat.wellFormed = true →
    ∃ t, exec i s = .next t ∧
      t.outlen.toNat = (if i.mode = .rd then s.blkSz else 0) + s.nblk * s.blkSz ∧
      t = { s with outlen := t.outlen, err := 0, done := true, busy := false, phase := .idle }

/-- R201: the closing BLOCKS step of a DEC operation goes to COMBINE in CBC and to UNPAD in every other mode. -/
def Obligations.DecClosingStep : Prop :=
  ∀ (i : Instr) (s : State), i.dir = .dec → s.phase = .blocks → s.pending = [] → s.blockHolds i.dir i.mode = true →
    (i.mode = .cbc → ∃ t, exec i s = .next t ∧ (∀ k, k ∈ t.pending ↔ k < s.nblk) ∧
      t = { s with pending := t.pending, phase := .combine }) ∧
    (i.mode ≠ .cbc → exec i s = .next { s with phase := .unpad })

/-! ## UNPAD -/

/-- R125, R126: UNPAD with Zeros ends the operation with the largest length that is 0 or ends in a nonzero byte. -/
def Obligations.UnpadStepZeros : Prop :=
  ∀ (i : Instr) (s : State), i.dir = .dec → i.pad = .zeros → s.phase = .unpad → s.spacesHold i.dir i.mode = true →
    s.plat.wellFormed = true →
    ∃ t, exec i s = .next t ∧ t.outlen.toNat ≤ s.nblk * s.blkSz ∧
      (t.outlen.toNat = 0 ∨ s.byteAt .outbuf (t.outlen.toNat - 1) ≠ 0) ∧
      (∀ a, t.outlen.toNat ≤ a → a < s.nblk * s.blkSz → s.byteAt .outbuf a = 0) ∧
      t = { s with outlen := t.outlen, err := 0, done := true, busy := false, phase := .idle }

/-- R125, R127 to R130: UNPAD with a counted scheme: the last byte is the count, 1 to B is accepted, anything else and an
empty content are PaddingError. -/
def Obligations.UnpadStepCounted : Prop :=
  ∀ (i : Instr) (s : State), i.dir = .dec → i.pad ≠ .zeros → s.phase = .unpad → s.spacesHold i.dir i.mode = true →
    s.plat.wellFormed = true →
    let n := s.nblk * s.blkSz
    let p := (s.byteAt .outbuf (n - 1)).toNat
    (n = 0 ∨ p = 0 ∨ s.blkSz < p → exec i s = .next
      { s with outlen := 0, err := 4, done := true, busy := false, phase := .idle, outbuf := [] }) ∧
    (¬ (n = 0 ∨ p = 0 ∨ s.blkSz < p) → ∃ t, exec i s = .next t ∧ t.outlen.toNat = n - p ∧
      t = { s with outlen := t.outlen, err := 0, done := true, busy := false, phase := .idle })

/-- R131: the pad of a counted scheme has length B - (n mod B), in 1 to B; the padded message has (n div B + 1) * B bytes and
ends in the byte PADLEN; under any counted scheme it is unpadded to the message, whatever was drawn. -/
def Obligations.CountedPaddingRoundTrip : Prop :=
  ∀ (i j : Instr) (s t u : State), i.dir = .enc → i.pad ≠ .zeros → s.phase = .pad → exec i s = .next t →
    j.dir = .dec → j.pad ≠ .zeros → u.phase = .unpad → u.spacesHold j.dir j.mode = true →
    u.plat.wellFormed = true → u.plat = s.plat → s.cbound = true → u.nblk = t.nblk →
    (∀ a, a < t.nblk * t.blkSz → u.byteAt .outbuf a = t.padded a) →
    t.padlen = s.blkSz - s.inlen.toNat % s.blkSz ∧ 1 ≤ t.padlen ∧ t.padlen ≤ s.blkSz ∧
    t.nblk = s.inlen.toNat / s.blkSz + 1 ∧ t.nblk * t.blkSz = s.inlen.toNat + t.padlen ∧
    (t.padded (t.nblk * t.blkSz - 1)).toNat = t.padlen ∧
    ∃ v, exec j u = .next v ∧ v.phase = .idle ∧ v.err = 0 ∧ v.outlen = s.inlen

/-- R132: with Zeros the padded message has ceil(n / B) * B bytes; it is unpadded to the message exactly when that is empty or
does not end in 00, and otherwise to the message with all its trailing 00 bytes removed. -/
def Obligations.ZerosPaddingRoundTrip : Prop :=
  ∀ (i j : Instr) (s t u : State), i.dir = .enc → i.pad = .zeros → s.phase = .pad → exec i s = .next t →
    j.dir = .dec → j.pad = .zeros → u.phase = .unpad → u.spacesHold j.dir j.mode = true →
    u.plat.wellFormed = true → u.plat = s.plat → s.cbound = true → u.nblk = t.nblk →
    (∀ a, a < t.nblk * t.blkSz → u.byteAt .outbuf a = t.padded a) →
    t.nblk = (s.inlen.toNat + s.blkSz - 1) / s.blkSz ∧
    ∃ v, exec j u = .next v ∧ v.phase = .idle ∧ v.err = 0 ∧
      (v.outlen = s.inlen ↔ s.inlen.toNat = 0 ∨ s.byteAt .inbuf (s.inlen.toNat - 1) ≠ 0) ∧
      v.outlen.toNat ≤ s.inlen.toNat ∧
      (v.outlen.toNat = 0 ∨ s.byteAt .inbuf (v.outlen.toNat - 1) ≠ 0) ∧
      (∀ a, v.outlen.toNat ≤ a → a < s.inlen.toNat → s.byteAt .inbuf a = 0)

/-! ## Whole-machine rules -/

/-- R200: an engine step of a command goes from phase to phase as the table of R200 allows, under the conditions the table
gives, and no other way. -/
def Obligations.PhaseTransitionsComplete : Prop :=
  ∀ (i : Instr) (s t : State), exec i s = .next t → phaseStep i s t

/-- R24, R26, R28, R39: an engine step of an operation never writes CTX, INBUF, INLEN, IVMEM, IVLEN, the parameters or the
host. -/
def Obligations.EngineKeepsItsInputs : Prop :=
  ∀ (i : Instr) (s t : State), s.phase ≠ .idle → exec i s = .next t →
    t.ctx = s.ctx ∧ t.inlen = s.inlen ∧ t.ivlen = s.ivlen ∧ t.plat = s.plat ∧ t.host = s.host ∧
    (∀ a, t.byteAt .inbuf a = s.byteAt .inbuf a) ∧ (∀ a, t.byteAt .ivmem a = s.byteAt .ivmem a)

/-- R69, R144, R180: outside the bytes it stores to, an engine step that does not end in an error leaves OUTBUF as it was. For
UNPAD R125 says so ("it never changes a byte of OUTBUF"); that the normal end of an ENC operation keeps OUTBUF at and beyond
OUTLEN, which R225 and R66 leave unspecified, is the model's choice (DESIGN CHOICE, log 15). -/
def Obligations.EngineStoreFrame : Prop :=
  ∀ (i : Instr) (s t : State) (a : Nat), exec i s = .next t → (t.phase ≠ .idle ∨ t.err = 0) → ¬ storesAt i s a →
    t.byteAt .outbuf a = s.byteAt .outbuf a

/-- R94: OPT is carried in the command word, all its values are legal, and it is read by no rule: two commands that differ in
it alone take the same engine step in every operation. -/
def Obligations.OptionsIgnored : Prop :=
  (∀ i : Instr, legalWord (encode i) = true ∧ optField (encode i) = i.opt) ∧
  ∀ (i j : Instr) (s : State), i.dir = j.dir → i.mode = j.mode → i.pad = j.pad → s.phase ≠ .idle → exec i s = exec j s

/-- R10, R164: the counter block is IV + i + CTR_BASE, big-endian, modulo 256^B. -/
def Obligations.CounterArithmetic : Prop :=
  ∀ (s : State) (i : Nat),
    (s.ctr i).length = s.blkSz ∧ be (s.ctr i) = (be s.iv + (i + s.plat.ctrBase.val)) % 256 ^ s.blkSz

/-! ## The host operations, as steps -/

/-- R70: what HostReadReg returns, as numbers; it changes no state but the host's own. -/
def Obligations.HostReadsRegister : Prop :=
  ∀ (s : State) (n : Fin 8) (rest : List HostMove), s.host.todo = .readReg n :: rest →
    ∃ v : BitVec 32, step s = .next { s with host := { todo := rest, seen := s.host.seen ++ [.reg n v] } } ∧
      (n = 0 → v.toNat = 0) ∧
      (n = 1 → v.toNat = (if s.busy then 1 else 0) + 2 * (if s.done then 1 else 0) + 4 * s.err.toNat +
        32 * (if s.cbound then 1 else 0)) ∧
      (n = 2 → v.toNat = s.ctx.toNat) ∧
      (n = 3 → s.plat.wellFormed = true → v.toNat = (match s.plat.cipher with | some c => c.size | none => 0)) ∧
      (n = 4 → v.toNat = s.inlen.toNat) ∧ (n = 5 → v.toNat = s.outlen.toNat) ∧ (n = 6 → v.toNat = s.ivlen.toNat) ∧
      (n = 7 → v.toNat = 0)

/-- R71, for the registers other than CMD (that one is `CommandAcceptance`). -/
def Obligations.HostWritesRegister : Prop :=
  ∀ (s : State) (n : Fin 8) (v : BitVec 32) (rest : List HostMove), s.host.todo = .writeReg n v :: rest →
    let s0 := { s with host := { s.host with todo := rest } }
    (n = 4 → s.busy = false → v.toNat ≤ s.plat.cap → step s = .next { s0 with inlen := v }) ∧
    (n = 4 → ¬ (s.busy = false ∧ v.toNat ≤ s.plat.cap) → step s = .next s0) ∧
    (n = 6 → s.busy = false → v.toNat ≤ 256 →
      ∃ t, step s = .next t ∧ t.ivlen.toNat = v.toNat ∧ t = { s0 with ivlen := t.ivlen }) ∧
    (n = 6 → ¬ (s.busy = false ∧ v.toNat ≤ 256) → step s = .next s0) ∧
    (n = 1 ∨ n = 2 ∨ n = 3 ∨ n = 5 ∨ n = 7 → step s = .next s0)

/-- R72: HostWriteByte writes one byte of INBUF or IVMEM of an idle engine, and nothing else. -/
def Obligations.HostWritesByte : Prop :=
  ∀ (s : State) (sp : Space) (a : Nat) (v : Byte) (rest : List HostMove), s.host.todo = .writeByte sp a v :: rest →
    let s0 := { s with host := { s.host with todo := rest } }
    (sp = .inbuf → s.busy = false → a < s.plat.cap →
      ∃ t, step s = .next t ∧ (∀ b, t.byteAt .inbuf b = if b = a then v else s.byteAt .inbuf b) ∧
        t = { s0 with inbuf := t.inbuf }) ∧
    (sp = .inbuf → ¬ (s.busy = false ∧ a < s.plat.cap) → step s = .next s0) ∧
    (sp = .ivmem → s.busy = false → a < 256 →
      ∃ t, step s = .next t ∧ (∀ b, t.byteAt .ivmem b = if b = a then v else s.byteAt .ivmem b) ∧
        t = { s0 with ivmem := t.ivmem }) ∧
    (sp = .ivmem → ¬ (s.busy = false ∧ a < 256) → step s = .next s0) ∧
    (sp = .outbuf → step s = .next s0)

/-- R73: HostReadByte returns the byte of the space where R73 says so, and some byte everywhere else; it changes nothing but
the host's answers and, where the byte is unspecified, the model's own counter of those (log 10). -/
def Obligations.HostReadsByte : Prop :=
  ∀ (s : State) (sp : Space) (a : Nat) (rest : List HostMove), s.host.todo = .readByte sp a :: rest →
    ∃ (v : Byte) (t : State), step s = .next t ∧ t.host = { todo := rest, seen := s.host.seen ++ [.byte sp a v] } ∧
      (sp = .inbuf → a < s.plat.cap → v = s.byteAt .inbuf a) ∧
      (sp = .ivmem → a < 256 → v = s.byteAt .ivmem a) ∧
      (sp = .outbuf → s.done = true → s.err = 0 → a < s.outlen.toNat → v = s.byteAt .outbuf a) ∧
      t = { s with host := t.host, free := { s.free with reads := t.free.reads } }

/-- R74: what a host may rely on. While BUSY = 1 no event but a reset changes CTX, the message, the IV or their lengths; while
BUSY = 0 no event but a reset or a write to CMD changes ERR, DONE, OUTLEN or a byte of OUTBUF. For the bytes of OUTBUF at and
beyond OUTLEN this is the model's choice (DESIGN CHOICE, log 15). -/
def Obligations.HostMayRelyOnHandshake : Prop :=
  ∀ s t : State, step s = .next t → s.host.todo.head? ≠ some .reset →
    (s.busy = true → t.ctx = s.ctx ∧ t.inlen = s.inlen ∧ t.ivlen = s.ivlen ∧
      (∀ a, t.byteAt .inbuf a = s.byteAt .inbuf a) ∧ (∀ a, t.byteAt .ivmem a = s.byteAt .ivmem a)) ∧
    (s.busy = false → (∀ v, s.host.todo.head? ≠ some (.writeReg 0 v)) →
      t.err = s.err ∧ t.done = s.done ∧ t.outlen = s.outlen ∧ (∀ a, t.byteAt .outbuf a = s.byteAt .outbuf a))

/-- R242, R260, U4, U8: the platform changes the cipher or its keys between operations only, and only to a legal block size;
setting the encryption key makes E the function set and leaves D, setting the decryption key makes D that function and
leaves E. That each call changes its own direction alone is the model's choice (DESIGN CHOICE, log 16), and the model refuses the
rest (log 13). -/
def Obligations.CipherChangesOutsideOperations : Prop :=
  ∀ (s : State) (rest : List HostMove) (c : Option Cipher) (f : PortFn) (m : HostMove), s.host.todo = m :: rest →
    (m = .attach c ∨ m = .setEncryptionKey f ∨ m = .setDecryptionKey f) →
    (s.busy = true → step s = .refused .keyChangeWhileBusy) ∧
    (s.busy = false → m = .attach c → c.all Cipher.wellFormed = true → step s = .next
      { s with host := { s.host with todo := rest }, plat := { s.plat with cipher := c } }) ∧
    (s.busy = false → m = .attach c → c.all Cipher.wellFormed = false → step s = .refused .blockSizeOutOfRange) ∧
    (s.busy = false → m ≠ .attach c → ∃ t, step s = .next t ∧ t.cbound = s.cbound ∧ t.blkSz = s.blkSz ∧
      (∀ a, s.plat.cipher = some a → m = .setEncryptionKey f → t.plat.cipher = some { a with enc := f }) ∧
      (∀ a, s.plat.cipher = some a → m = .setDecryptionKey f → t.plat.cipher = some { a with dec := f }) ∧
      (∀ x, m = .setEncryptionKey f → t.cipherDec x = s.cipherDec x) ∧
      (∀ x, m = .setDecryptionKey f → t.cipherEnc x = s.cipherEnc x) ∧
      t = { s with host := { s.host with todo := rest }, plat := { s.plat with cipher := t.plat.cipher } })

/-! ## Reset -/

/-- R40, the values the rule gives, on every platform. (TAIL and FB are the model's choice, log 6.) -/
def Obligations.ResetState : Prop :=
  ∀ p : Platform,
    let r := State.resetOn p
    r.busy = false ∧ r.done = false ∧ r.err = 0 ∧ r.ctx = 0x0000 ∧ r.inlen = 0 ∧ r.outlen = 0 ∧ r.ivlen = 0 ∧
    r.phase = .idle ∧ r.pending = [] ∧ r.nblk = 0 ∧ r.padlen = 0 ∧ r.plat = p ∧
    (∀ sp a, (r.space sp).get? a = none)

/-- R250, R251: asserting reset in any state, in one event; the parameters, the host's agenda and what was drawn stay. -/
def Obligations.ResetStep : Prop :=
  ∀ (s : State) (rest : List HostMove), s.host.todo = .reset :: rest →
    ∃ t, step s = .next t ∧
      t.busy = false ∧ t.done = false ∧ t.err = 0 ∧ t.ctx = 0x0000 ∧ t.inlen = 0 ∧ t.outlen = 0 ∧ t.ivlen = 0 ∧
      t.phase = .idle ∧ t.pending = [] ∧ t.nblk = 0 ∧ t.padlen = 0 ∧ (∀ sp a, (t.space sp).get? a = none) ∧
      t.plat = s.plat ∧ t.host = { s.host with todo := rest } ∧
      t.free.rnd = s.free.rnd ∧ t.free.drawn = s.free.drawn

/-! ## The invariant -/

/-- The invariant holds at reset, on every platform within R6. -/
def Obligations.ResetMeetsInvariant : Prop :=
  ∀ p : Platform, p.wellFormed = true → (State.resetOn p).Inv

/-- Every step of engine, host or platform keeps the invariant. -/
def Obligations.StepKeepsInvariant : Prop :=
  ∀ s t : State, s.Inv → step s = .next t → t.Inv

/-- R66, R200, U13: from a state of the invariant every step goes on, but for a change of cipher the spec says to refuse. -/
def Obligations.InvariantStatesGoOn : Prop :=
  ∀ s : State, s.Inv →
    (∃ t, step s = .next t) ∨
    (∃ c, s.host.todo.head? = some (.attach c) ∧ (s.busy = true ∨ c.all Cipher.wellFormed = false)) ∨
    (∃ f, (s.host.todo.head? = some (.setEncryptionKey f) ∨ s.host.todo.head? = some (.setDecryptionKey f)) ∧
      s.busy = true)

/-! ## Whole operations -/

/-- R206, R101: every operation ends after finitely many steps, whatever the ports answer, also while the host waits; a WAIT
that is pending then ends in the next step with a STATUS whose BUSY bit reads 0. (With no host move pending or a WAIT the
step is the engine's: DESIGN CHOICE, log 4.) -/
def Obligations.EveryOperationEnds : Prop :=
  ∀ s : State, s.Inv → s.busy = true → (s.host.todo = [] ∨ s.host.todo.head? = some .wait) →
    ∃ n t, n ≤ 2 * s.outCap + 6 ∧ runs n s t ∧ t.phase = .idle ∧ t.busy = false ∧ t.done = true ∧ t.host = s.host ∧
      ∀ rest, s.host.todo = .wait :: rest → ∃ v : BitVec 32, v.toNat % 2 = 0 ∧
        runs (n + 1) s { t with host := { todo := rest, seen := s.host.seen ++ [.reg 1 v] } }

/-- R205, R206, R133: an ENC operation whose checks pass and whose cipher never fails ends after exactly NBLK + 4 steps with
the closed-form ciphertext. -/
def Obligations.EncOperationClosedForm : Prop :=
  ∀ (i : Instr) (s : State) (e : ByteString → ByteString), i.dir = .enc → AtStart i s → ChecksPass i s →
    (∀ x, x.length = s.blkSz → s.cipherEnc x = some (e x)) →
    ∃ t, runs (encBlocks i s + 4) s t ∧ EndedWell t ∧
      t.outlen.toNat = s.seedOff i.mode + encBlocks i s * s.blkSz ∧
      encBlocks i s * s.blkSz = s.inlen.toNat + padLen i.pad s.blkSz s.inlen.toNat ∧
      (i.mode = .rd → ∀ j, j < s.blkSz → t.byteAt .outbuf j = (encSeed i s).getD j 0) ∧
      (∀ k j, k < encBlocks i s → j < s.blkSz →
        t.byteAt .outbuf (s.seedOff i.mode + k * s.blkSz + j) =
          (Closed.encBlock i.mode e s.iv (encSeed i s) s.plat.ctrBase.val (plainBlock i s) k).getD j 0)

/-- R205, R206: a DEC operation whose checks pass and whose cipher never fails ends with the closed-form plaintext, unpadded,
or in PaddingError, after NBLK + 4 steps (2 * NBLK + 5 for DEC.CBC). -/
def Obligations.DecOperationClosedForm : Prop :=
  ∀ (i : Instr) (s : State) (e d : ByteString → ByteString), i.dir = .dec → AtStart i s → ChecksPass i s →
    (i.mode = .cfb ∨ i.mode = .ofb ∨ i.mode = .ctr → ∀ x, x.length = s.blkSz → s.cipherEnc x = some (e x)) →
    (¬ (i.mode = .cfb ∨ i.mode = .ofb ∨ i.mode = .ctr) → ∀ x, x.length = s.blkSz → s.cipherDec x = some (d x)) →
    let nblk := decBlocks i s
    let plain := fun a => (Closed.decBlock i.mode e d s.iv (s.memRead .inbuf 0 s.blkSz) s.plat.ctrBase.val
      (s.cBlk i.mode) (a / s.blkSz)).getD (a % s.blkSz) 0
    ∃ t, runs (if i.mode = .cbc then 2 * nblk + 5 else nblk + 4) s t ∧
      (∀ len, unpadLen i.pad s.blkSz (nblk * s.blkSz) plain = some len →
        EndedWell t ∧ t.outlen.toNat = len ∧ ∀ a, a < len → t.byteAt .outbuf a = plain a) ∧
      (unpadLen i.pad s.blkSz (nblk * s.blkSz) plain = none → t.phase = .idle ∧ t.done = true ∧ t.err = 4 ∧ t.outlen = 0)

/-- R37, R210: the outcome of an operation is a function of the command word, the message, the IV, their lengths, the
parameters and the bytes drawn: two operations that agree on those end alike, whatever FB, TAIL, OUTBUF, the other internal
registers and the choices of pending indices are, failing cipher requests included. -/
def Obligations.OutcomeDependsOnInputsAlone : Prop :=
  ∀ (i : Instr) (s u : State), AtStart i s → AtStart i u → u.plat = s.plat →
    u.inlen = s.inlen → (∀ a, a < s.inlen.toNat → u.byteAt .inbuf a = s.byteAt .inbuf a) →
    u.ivlen = s.ivlen → (∀ a, a < s.ivlen.toNat → u.byteAt .ivmem a = s.byteAt .ivmem a) →
    (∀ k, u.rndAt k = s.rndAt k) →
    ∃ n m t v, runs n s t ∧ runs m u v ∧ t.phase = .idle ∧ v.phase = .idle ∧ t.done = true ∧ v.done = true ∧
      t.err = v.err ∧ t.outlen = v.outlen ∧
      (t.err = 0 → ∀ a, a < t.outlen.toNat → t.byteAt .outbuf a = v.byteAt .outbuf a) ∧
      (∀ k, t.rndAt k = v.rndAt k)

/-- R131, R147, R167, R185: with a counted scheme, a DEC operation of the same mode and scheme on the result of an ENC
operation, under the same platform and IV, gives the message back. In CFB, OFB and CTR nothing is asked of D. -/
def Obligations.EncryptThenDecrypt : Prop :=
  ∀ (i j : Instr) (s u t : State) (n : Nat) (e : ByteString → ByteString), i.dir = .enc → j.dir = .dec →
    j.mode = i.mode → j.pad = i.pad → i.pad ≠ .zeros → AtStart i s → ChecksPass i s →
    (∀ x, x.length = s.blkSz → s.cipherEnc x = some (e x)) →
    (¬ (i.mode = .cfb ∨ i.mode = .ofb ∨ i.mode = .ctr) → ∀ x, x.length = s.blkSz → s.cipherDec (e x) = some x) →
    runs n s t → t.phase = .idle →
    AtStart j u → u.plat = s.plat → u.ivlen = s.ivlen → (∀ a, a < s.blkSz → u.byteAt .ivmem a = s.byteAt .ivmem a) →
    u.inlen = t.outlen → (∀ a, a < t.outlen.toNat → u.byteAt .inbuf a = t.byteAt .outbuf a) →
    ∃ m v, runs m u v ∧ EndedWell v ∧ v.outlen = s.inlen ∧
      ∀ a, a < s.inlen.toNat → v.byteAt .outbuf a = s.byteAt .inbuf a

/-- R148 for one combine step: when ciphertext block j is changed by a nonzero block d, the plaintext block j + 1 that DEC.CBC
combines changes by d. -/
def Obligations.CbcErrorMovesToNextBlock : Prop :=
  ∀ (opt : BitVec 4) (pad : PadScheme) (s t : State) (d : ByteString) (j : Nat),
    s.phase = .combine → t.phase = .combine → s.blockHolds .dec .cbc = true → t.blockHolds .dec .cbc = true →
    s.plat = t.plat → s.pending.min? = some (j + 1) → t.pending.min? = some (j + 1) → d.length = s.blkSz →
    t.cBlk .cbc j = xor (s.cBlk .cbc j) d → t.getBlk (j + 1) = s.getBlk (j + 1) →
    ∃ s' t', exec (.decCbc opt pad) s = .next s' ∧ exec (.decCbc opt pad) t = .next t' ∧
      t'.getBlk (j + 1) = xor (s'.getBlk (j + 1)) d
end

