-- ==== Sys2Proof/Laws/State.lean ====
section
/-!
SUPPORT. One lemma per field per update of the state, each true by rfl, so that no later proof unfolds a record update.
-/

namespace Sys2Proof.Machine

section acceptFields
variable (s : State) (w : Word)

@[simp] theorem State.accept_ctx : (s.accept w).ctx = w := rfl
@[simp] theorem State.accept_busy : (s.accept w).busy = true := rfl
@[simp] theorem State.accept_done : (s.accept w).done = false := rfl
@[simp] theorem State.accept_err : (s.accept w).err = 0 := rfl
@[simp] theorem State.accept_inlen : (s.accept w).inlen = s.inlen := rfl
@[simp] theorem State.accept_outlen : (s.accept w).outlen = 0 := rfl
@[simp] theorem State.accept_ivlen : (s.accept w).ivlen = s.ivlen := rfl
@[simp] theorem State.accept_inbuf : (s.accept w).inbuf = s.inbuf := rfl
@[simp] theorem State.accept_outbuf : (s.accept w).outbuf = s.outbuf := rfl
@[simp] theorem State.accept_ivmem : (s.accept w).ivmem = s.ivmem := rfl
@[simp] theorem State.accept_phase : (s.accept w).phase = .check := rfl
@[simp] theorem State.accept_pending : (s.accept w).pending = s.pending := rfl
@[simp] theorem State.accept_nblk : (s.accept w).nblk = s.nblk := rfl
@[simp] theorem State.accept_padlen : (s.accept w).padlen = s.padlen := rfl
@[simp] theorem State.accept_tail : (s.accept w).tail = s.tail := rfl
@[simp] theorem State.accept_fb : (s.accept w).fb = s.fb := rfl
@[simp] theorem State.accept_plat : (s.accept w).plat = s.plat := rfl
@[simp] theorem State.accept_host : (s.accept w).host = s.host := rfl
@[simp] theorem State.accept_free : (s.accept w).free = s.free := rfl
end acceptFields

section raiseFields
variable (s : State) (e : EngineError)

@[simp] theorem State.raise_ctx : (s.raise e).ctx = s.ctx := rfl
@[simp] theorem State.raise_busy : (s.raise e).busy = false := rfl
@[simp] theorem State.raise_done : (s.raise e).done = true := rfl
@[simp] theorem State.raise_err : (s.raise e).err = e.code := rfl
@[simp] theorem State.raise_inlen : (s.raise e).inlen = s.inlen := rfl
@[simp] theorem State.raise_outlen : (s.raise e).outlen = 0 := rfl
@[simp] theorem State.raise_ivlen : (s.raise e).ivlen = s.ivlen := rfl
@[simp] theorem State.raise_inbuf : (s.raise e).inbuf = s.inbuf := rfl
@[simp] theorem State.raise_outbuf : (s.raise e).outbuf = [] := rfl
@[simp] theorem State.raise_ivmem : (s.raise e).ivmem = s.ivmem := rfl
@[simp] theorem State.raise_phase : (s.raise e).phase = .idle := rfl
@[simp] theorem State.raise_pending : (s.raise e).pending = s.pending := rfl
@[simp] theorem State.raise_nblk : (s.raise e).nblk = s.nblk := rfl
@[simp] theorem State.raise_padlen : (s.raise e).padlen = s.padlen := rfl
@[simp] theorem State.raise_tail : (s.raise e).tail = s.tail := rfl
@[simp] theorem State.raise_fb : (s.raise e).fb = s.fb := rfl
@[simp] theorem State.raise_plat : (s.raise e).plat = s.plat := rfl
@[simp] theorem State.raise_host : (s.raise e).host = s.host := rfl
@[simp] theorem State.raise_free : (s.raise e).free = s.free := rfl
end raiseFields

section finishFields
variable (s : State) (n : Nat)

@[simp] theorem State.finish_ctx : (s.finish n).ctx = s.ctx := rfl
@[simp] theorem State.finish_busy : (s.finish n).busy = false := rfl
@[simp] theorem State.finish_done : (s.finish n).done = true := rfl
@[simp] theorem State.finish_err : (s.finish n).err = 0 := rfl
@[simp] theorem State.finish_inlen : (s.finish n).inlen = s.inlen := rfl
@[simp] theorem State.finish_outlen : (s.finish n).outlen = BitVec.ofNat 32 n := rfl
@[simp] theorem State.finish_ivlen : (s.finish n).ivlen = s.ivlen := rfl
@[simp] theorem State.finish_inbuf : (s.finish n).inbuf = s.inbuf := rfl
@[simp] theorem State.finish_outbuf : (s.finish n).outbuf = s.outbuf := rfl
@[simp] theorem State.finish_ivmem : (s.finish n).ivmem = s.ivmem := rfl
@[simp] theorem State.finish_phase : (s.finish n).phase = .idle := rfl
@[simp] theorem State.finish_pending : (s.finish n).pending = s.pending := rfl
@[simp] theorem State.finish_nblk : (s.finish n).nblk = s.nblk := rfl
@[simp] theorem State.finish_padlen : (s.finish n).padlen = s.padlen := rfl
@[simp] theorem State.finish_tail : (s.finish n).tail = s.tail := rfl
@[simp] theorem State.finish_fb : (s.finish n).fb = s.fb := rfl
@[simp] theorem State.finish_plat : (s.finish n).plat = s.plat := rfl
@[simp] theorem State.finish_host : (s.finish n).host = s.host := rfl
@[simp] theorem State.finish_free : (s.finish n).free = s.free := rfl
end finishFields

section writeOutFields
variable (s : State) (a : Nat) (bs : ByteString)

@[simp] theorem State.writeOut_ctx : (s.writeOut a bs).ctx = s.ctx := rfl
@[simp] theorem State.writeOut_busy : (s.writeOut a bs).busy = s.busy := rfl
@[simp] theorem State.writeOut_done : (s.writeOut a bs).done = s.done := rfl
@[simp] theorem State.writeOut_err : (s.writeOut a bs).err = s.err := rfl
@[simp] theorem State.writeOut_inlen : (s.writeOut a bs).inlen = s.inlen := rfl
@[simp] theorem State.writeOut_outlen : (s.writeOut a bs).outlen = s.outlen := rfl
@[simp] theorem State.writeOut_ivlen : (s.writeOut a bs).ivlen = s.ivlen := rfl
@[simp] theorem State.writeOut_inbuf : (s.writeOut a bs).inbuf = s.inbuf := rfl
@[simp] theorem State.writeOut_outbuf : (s.writeOut a bs).outbuf = s.outbuf.write a bs := rfl
@[simp] theorem State.writeOut_ivmem : (s.writeOut a bs).ivmem = s.ivmem := rfl
@[simp] theorem State.writeOut_phase : (s.writeOut a bs).phase = s.phase := rfl
@[simp] theorem State.writeOut_pending : (s.writeOut a bs).pending = s.pending := rfl
@[simp] theorem State.writeOut_nblk : (s.writeOut a bs).nblk = s.nblk := rfl
@[simp] theorem State.writeOut_padlen : (s.writeOut a bs).padlen = s.padlen := rfl
@[simp] theorem State.writeOut_tail : (s.writeOut a bs).tail = s.tail := rfl
@[simp] theorem State.writeOut_fb : (s.writeOut a bs).fb = s.fb := rfl
@[simp] theorem State.writeOut_plat : (s.writeOut a bs).plat = s.plat := rfl
@[simp] theorem State.writeOut_host : (s.writeOut a bs).host = s.host := rfl
@[simp] theorem State.writeOut_free : (s.writeOut a bs).free = s.free := rfl
end writeOutFields

section setFbFields
variable (s : State) (v : ByteString)

@[simp] theorem State.setFb_ctx : (s.setFb v).ctx = s.ctx := rfl
@[simp] theorem State.setFb_busy : (s.setFb v).busy = s.busy := rfl
@[simp] theorem State.setFb_done : (s.setFb v).done = s.done := rfl
@[simp] theorem State.setFb_err : (s.setFb v).err = s.err := rfl
@[simp] theorem State.setFb_inlen : (s.setFb v).inlen = s.inlen := rfl
@[simp] theorem State.setFb_outlen : (s.setFb v).outlen = s.outlen := rfl
@[simp] theorem State.setFb_ivlen : (s.setFb v).ivlen = s.ivlen := rfl
@[simp] theorem State.setFb_inbuf : (s.setFb v).inbuf = s.inbuf := rfl
@[simp] theorem State.setFb_outbuf : (s.setFb v).outbuf = s.outbuf := rfl
@[simp] theorem State.setFb_ivmem : (s.setFb v).ivmem = s.ivmem := rfl
@[simp] theorem State.setFb_phase : (s.setFb v).phase = s.phase := rfl
@[simp] theorem State.setFb_pending : (s.setFb v).pending = s.pending := rfl
@[simp] theorem State.setFb_nblk : (s.setFb v).nblk = s.nblk := rfl
@[simp] theorem State.setFb_padlen : (s.setFb v).padlen = s.padlen := rfl
@[simp] theorem State.setFb_tail : (s.setFb v).tail = s.tail := rfl
@[simp] theorem State.setFb_fb : (s.setFb v).fb = v := rfl
@[simp] theorem State.setFb_plat : (s.setFb v).plat = s.plat := rfl
@[simp] theorem State.setFb_host : (s.setFb v).host = s.host := rfl
@[simp] theorem State.setFb_free : (s.setFb v).free = s.free := rfl
end setFbFields

section dropFields
variable (s : State) (n : Nat)

@[simp] theorem State.drop_ctx : (s.drop n).ctx = s.ctx := rfl
@[simp] theorem State.drop_busy : (s.drop n).busy = s.busy := rfl
@[simp] theorem State.drop_done : (s.drop n).done = s.done := rfl
@[simp] theorem State.drop_err : (s.drop n).err = s.err := rfl
@[simp] theorem State.drop_inlen : (s.drop n).inlen = s.inlen := rfl
@[simp] theorem State.drop_outlen : (s.drop n).outlen = s.outlen := rfl
@[simp] theorem State.drop_ivlen : (s.drop n).ivlen = s.ivlen := rfl
@[simp] theorem State.drop_inbuf : (s.drop n).inbuf = s.inbuf := rfl
@[simp] theorem State.drop_outbuf : (s.drop n).outbuf = s.outbuf := rfl
@[simp] theorem State.drop_ivmem : (s.drop n).ivmem = s.ivmem := rfl
@[simp] theorem State.drop_phase : (s.drop n).phase = s.phase := rfl
@[simp] theorem State.drop_pending : (s.drop n).pending = s.pending := rfl
@[simp] theorem State.drop_nblk : (s.drop n).nblk = s.nblk := rfl
@[simp] theorem State.drop_padlen : (s.drop n).padlen = s.padlen := rfl
@[simp] theorem State.drop_tail : (s.drop n).tail = s.tail := rfl
@[simp] theorem State.drop_fb : (s.drop n).fb = s.fb := rfl
@[simp] theorem State.drop_plat : (s.drop n).plat = s.plat := rfl
@[simp] theorem State.drop_host : (s.drop n).host = s.host := rfl
@[simp] theorem State.drop_free : (s.drop n).free = { s.free with rnd := s.free.rnd.drop n, drawn := s.free.drawn + n } := rfl
end dropFields

section dropPickFields
variable (s : State)

@[simp] theorem State.dropPick_ctx : (s.dropPick).ctx = s.ctx := rfl
@[simp] theorem State.dropPick_busy : (s.dropPick).busy = s.busy := rfl
@[simp] theorem State.dropPick_done : (s.dropPick).done = s.done := rfl
@[simp] theorem State.dropPick_err : (s.dropPick).err = s.err := rfl
@[simp] theorem State.dropPick_inlen : (s.dropPick).inlen = s.inlen := rfl
@[simp] theorem State.dropPick_outlen : (s.dropPick).outlen = s.outlen := rfl
@[simp] theorem State.dropPick_ivlen : (s.dropPick).ivlen = s.ivlen := rfl
@[simp] theorem State.dropPick_inbuf : (s.dropPick).inbuf = s.inbuf := rfl
@[simp] theorem State.dropPick_outbuf : (s.dropPick).outbuf = s.outbuf := rfl
@[simp] theorem State.dropPick_ivmem : (s.dropPick).ivmem = s.ivmem := rfl
@[simp] theorem State.dropPick_phase : (s.dropPick).phase = s.phase := rfl
@[simp] theorem State.dropPick_pending : (s.dropPick).pending = s.pending := rfl
@[simp] theorem State.dropPick_nblk : (s.dropPick).nblk = s.nblk := rfl
@[simp] theorem State.dropPick_padlen : (s.dropPick).padlen = s.padlen := rfl
@[simp] theorem State.dropPick_tail : (s.dropPick).tail = s.tail := rfl
@[simp] theorem State.dropPick_fb : (s.dropPick).fb = s.fb := rfl
@[simp] theorem State.dropPick_plat : (s.dropPick).plat = s.plat := rfl
@[simp] theorem State.dropPick_host : (s.dropPick).host = s.host := rfl
@[simp] theorem State.dropPick_free : (s.dropPick).free = { s.free with picks := s.free.picks.tail, picked := s.free.picked + 1 } := rfl
end dropPickFields

section retireFields
variable (s : State) (i : Nat)

@[simp] theorem State.retire_ctx : (s.retire i).ctx = s.ctx := rfl
@[simp] theorem State.retire_busy : (s.retire i).busy = s.busy := rfl
@[simp] theorem State.retire_done : (s.retire i).done = s.done := rfl
@[simp] theorem State.retire_err : (s.retire i).err = s.err := rfl
@[simp] theorem State.retire_inlen : (s.retire i).inlen = s.inlen := rfl
@[simp] theorem State.retire_outlen : (s.retire i).outlen = s.outlen := rfl
@[simp] theorem State.retire_ivlen : (s.retire i).ivlen = s.ivlen := rfl
@[simp] theorem State.retire_inbuf : (s.retire i).inbuf = s.inbuf := rfl
@[simp] theorem State.retire_outbuf : (s.retire i).outbuf = s.outbuf := rfl
@[simp] theorem State.retire_ivmem : (s.retire i).ivmem = s.ivmem := rfl
@[simp] theorem State.retire_phase : (s.retire i).phase = s.phase := rfl
@[simp] theorem State.retire_pending : (s.retire i).pending = s.pending.filter (fun j => j ≠ i) := rfl
@[simp] theorem State.retire_nblk : (s.retire i).nblk = s.nblk := rfl
@[simp] theorem State.retire_padlen : (s.retire i).padlen = s.padlen := rfl
@[simp] theorem State.retire_tail : (s.retire i).tail = s.tail := rfl
@[simp] theorem State.retire_fb : (s.retire i).fb = s.fb := rfl
@[simp] theorem State.retire_plat : (s.retire i).plat = s.plat := rfl
@[simp] theorem State.retire_host : (s.retire i).host = s.host := rfl
@[simp] theorem State.retire_free : (s.retire i).free = s.free := rfl
end retireFields

section putBlkFields
variable (s : State) (d : Dir) (m : Mode) (i : Nat) (v : ByteString)

@[simp] theorem State.putBlk_ctx : (s.putBlk d m i v).ctx = s.ctx := rfl
@[simp] theorem State.putBlk_busy : (s.putBlk d m i v).busy = s.busy := rfl
@[simp] theorem State.putBlk_done : (s.putBlk d m i v).done = s.done := rfl
@[simp] theorem State.putBlk_err : (s.putBlk d m i v).err = s.err := rfl
@[simp] theorem State.putBlk_inlen : (s.putBlk d m i v).inlen = s.inlen := rfl
@[simp] theorem State.putBlk_outlen : (s.putBlk d m i v).outlen = s.outlen := rfl
@[simp] theorem State.putBlk_ivlen : (s.putBlk d m i v).ivlen = s.ivlen := rfl
@[simp] theorem State.putBlk_inbuf : (s.putBlk d m i v).inbuf = s.inbuf := rfl
@[simp] theorem State.putBlk_outbuf : (s.putBlk d m i v).outbuf = s.outbuf.write (s.outAddr d m i) v := rfl
@[simp] theorem State.putBlk_ivmem : (s.putBlk d m i v).ivmem = s.ivmem := rfl
@[simp] theorem State.putBlk_phase : (s.putBlk d m i v).phase = s.phase := rfl
@[simp] theorem State.putBlk_pending : (s.putBlk d m i v).pending = s.pending := rfl
@[simp] theorem State.putBlk_nblk : (s.putBlk d m i v).nblk = s.nblk := rfl
@[simp] theorem State.putBlk_padlen : (s.putBlk d m i v).padlen = s.padlen := rfl
@[simp] theorem State.putBlk_tail : (s.putBlk d m i v).tail = s.tail := rfl
@[simp] theorem State.putBlk_fb : (s.putBlk d m i v).fb = s.fb := rfl
@[simp] theorem State.putBlk_plat : (s.putBlk d m i v).plat = s.plat := rfl
@[simp] theorem State.putBlk_host : (s.putBlk d m i v).host = s.host := rfl
@[simp] theorem State.putBlk_free : (s.putBlk d m i v).free = s.free := rfl
end putBlkFields

section seeFields
variable (s : State) (x : HostAnswer)

@[simp] theorem State.see_ctx : (s.see x).ctx = s.ctx := rfl
@[simp] theorem State.see_busy : (s.see x).busy = s.busy := rfl
@[simp] theorem State.see_done : (s.see x).done = s.done := rfl
@[simp] theorem State.see_err : (s.see x).err = s.err := rfl
@[simp] theorem State.see_inlen : (s.see x).inlen = s.inlen := rfl
@[simp] theorem State.see_outlen : (s.see x).outlen = s.outlen := rfl
@[simp] theorem State.see_ivlen : (s.see x).ivlen = s.ivlen := rfl
@[simp] theorem State.see_inbuf : (s.see x).inbuf = s.inbuf := rfl
@[simp] theorem State.see_outbuf : (s.see x).outbuf = s.outbuf := rfl
@[simp] theorem State.see_ivmem : (s.see x).ivmem = s.ivmem := rfl
@[simp] theorem State.see_phase : (s.see x).phase = s.phase := rfl
@[simp] theorem State.see_pending : (s.see x).pending = s.pending := rfl
@[simp] theorem State.see_nblk : (s.see x).nblk = s.nblk := rfl
@[simp] theorem State.see_padlen : (s.see x).padlen = s.padlen := rfl
@[simp] theorem State.see_tail : (s.see x).tail = s.tail := rfl
@[simp] theorem State.see_fb : (s.see x).fb = s.fb := rfl
@[simp] theorem State.see_plat : (s.see x).plat = s.plat := rfl
@[simp] theorem State.see_host : (s.see x).host = { s.host with seen := s.host.seen ++ [x] } := rfl
@[simp] theorem State.see_free : (s.see x).free = s.free := rfl
end seeFields

section popMoveFields
variable (s : State)

@[simp] theorem State.popMove_ctx : (s.popMove).ctx = s.ctx := rfl
@[simp] theorem State.popMove_busy : (s.popMove).busy = s.busy := rfl
@[simp] theorem State.popMove_done : (s.popMove).done = s.done := rfl
@[simp] theorem State.popMove_err : (s.popMove).err = s.err := rfl
@[simp] theorem State.popMove_inlen : (s.popMove).inlen = s.inlen := rfl
@[simp] theorem State.popMove_outlen : (s.popMove).outlen = s.outlen := rfl
@[simp] theorem State.popMove_ivlen : (s.popMove).ivlen = s.ivlen := rfl
@[simp] theorem State.popMove_inbuf : (s.popMove).inbuf = s.inbuf := rfl
@[simp] theorem State.popMove_outbuf : (s.popMove).outbuf = s.outbuf := rfl
@[simp] theorem State.popMove_ivmem : (s.popMove).ivmem = s.ivmem := rfl
@[simp] theorem State.popMove_phase : (s.popMove).phase = s.phase := rfl
@[simp] theorem State.popMove_pending : (s.popMove).pending = s.pending := rfl
@[simp] theorem State.popMove_nblk : (s.popMove).nblk = s.nblk := rfl
@[simp] theorem State.popMove_padlen : (s.popMove).padlen = s.padlen := rfl
@[simp] theorem State.popMove_tail : (s.popMove).tail = s.tail := rfl
@[simp] theorem State.popMove_fb : (s.popMove).fb = s.fb := rfl
@[simp] theorem State.popMove_plat : (s.popMove).plat = s.plat := rfl
@[simp] theorem State.popMove_host : (s.popMove).host = { s.host with todo := s.host.todo.tail } := rfl
@[simp] theorem State.popMove_free : (s.popMove).free = s.free := rfl
end popMoveFields

section setCipherFields
variable (s : State) (c : Option Cipher)

@[simp] theorem State.setCipher_ctx : (s.setCipher c).ctx = s.ctx := rfl
@[simp] theorem State.setCipher_busy : (s.setCipher c).busy = s.busy := rfl
@[simp] theorem State.setCipher_done : (s.setCipher c).done = s.done := rfl
@[simp] theorem State.setCipher_err : (s.setCipher c).err = s.err := rfl
@[simp] theorem State.setCipher_inlen : (s.setCipher c).inlen = s.inlen := rfl
@[simp] theorem State.setCipher_outlen : (s.setCipher c).outlen = s.outlen := rfl
@[simp] theorem State.setCipher_ivlen : (s.setCipher c).ivlen = s.ivlen := rfl
@[simp] theorem State.setCipher_inbuf : (s.setCipher c).inbuf = s.inbuf := rfl
@[simp] theorem State.setCipher_outbuf : (s.setCipher c).outbuf = s.outbuf := rfl
@[simp] theorem State.setCipher_ivmem : (s.setCipher c).ivmem = s.ivmem := rfl
@[simp] theorem State.setCipher_phase : (s.setCipher c).phase = s.phase := rfl
@[simp] theorem State.setCipher_pending : (s.setCipher c).pending = s.pending := rfl
@[simp] theorem State.setCipher_nblk : (s.setCipher c).nblk = s.nblk := rfl
@[simp] theorem State.setCipher_padlen : (s.setCipher c).padlen = s.padlen := rfl
@[simp] theorem State.setCipher_tail : (s.setCipher c).tail = s.tail := rfl
@[simp] theorem State.setCipher_fb : (s.setCipher c).fb = s.fb := rfl
@[simp] theorem State.setCipher_plat : (s.setCipher c).plat = { s.plat with cipher := c } := rfl
@[simp] theorem State.setCipher_host : (s.setCipher c).host = s.host := rfl
@[simp] theorem State.setCipher_free : (s.setCipher c).free = s.free := rfl
end setCipherFields

section chooseFields
variable (s : State) (d : Dir) (m : Mode)

@[simp] theorem State.choose_ctx : (s.choose d m).ctx = s.ctx := by unfold State.choose; split <;> rfl
@[simp] theorem State.choose_busy : (s.choose d m).busy = s.busy := by unfold State.choose; split <;> rfl
@[simp] theorem State.choose_done : (s.choose d m).done = s.done := by unfold State.choose; split <;> rfl
@[simp] theorem State.choose_err : (s.choose d m).err = s.err := by unfold State.choose; split <;> rfl
@[simp] theorem State.choose_inlen : (s.choose d m).inlen = s.inlen := by unfold State.choose; split <;> rfl
@[simp] theorem State.choose_outlen : (s.choose d m).outlen = s.outlen := by unfold State.choose; split <;> rfl
@[simp] theorem State.choose_ivlen : (s.choose d m).ivlen = s.ivlen := by unfold State.choose; split <;> rfl
@[simp] theorem State.choose_inbuf : (s.choose d m).inbuf = s.inbuf := by unfold State.choose; split <;> rfl
@[simp] theorem State.choose_outbuf : (s.choose d m).outbuf = s.outbuf := by unfold State.choose; split <;> rfl
@[simp] theorem State.choose_ivmem : (s.choose d m).ivmem = s.ivmem := by unfold State.choose; split <;> rfl
@[simp] theorem State.choose_phase : (s.choose d m).phase = s.phase := by unfold State.choose; split <;> rfl
@[simp] theorem State.choose_pending : (s.choose d m).pending = s.pending := by unfold State.choose; split <;> rfl
@[simp] theorem State.choose_nblk : (s.choose d m).nblk = s.nblk := by unfold State.choose; split <;> rfl
@[simp] theorem State.choose_padlen : (s.choose d m).padlen = s.padlen := by unfold State.choose; split <;> rfl
@[simp] theorem State.choose_tail : (s.choose d m).tail = s.tail := by unfold State.choose; split <;> rfl
@[simp] theorem State.choose_fb : (s.choose d m).fb = s.fb := by unfold State.choose; split <;> rfl
@[simp] theorem State.choose_plat : (s.choose d m).plat = s.plat := by unfold State.choose; split <;> rfl
@[simp] theorem State.choose_host : (s.choose d m).host = s.host := by unfold State.choose; split <;> rfl
end chooseFields

/-! What a parameter or a derived register reads after an update that does not touch it. -/

@[simp] theorem State.accept_blkSz (s : State) (w : Word) : (s.accept w).blkSz = s.blkSz := rfl
@[simp] theorem State.accept_cap (s : State) (w : Word) : (s.accept w).cap = s.cap := rfl
@[simp] theorem State.accept_outCap (s : State) (w : Word) : (s.accept w).outCap = s.outCap := rfl
@[simp] theorem State.accept_cbound (s : State) (w : Word) : (s.accept w).cbound = s.cbound := rfl
@[simp] theorem State.raise_blkSz (s : State) (e : EngineError) : (s.raise e).blkSz = s.blkSz := rfl
@[simp] theorem State.raise_cap (s : State) (e : EngineError) : (s.raise e).cap = s.cap := rfl
@[simp] theorem State.raise_outCap (s : State) (e : EngineError) : (s.raise e).outCap = s.outCap := rfl
@[simp] theorem State.raise_cbound (s : State) (e : EngineError) : (s.raise e).cbound = s.cbound := rfl
@[simp] theorem State.finish_blkSz (s : State) (n : Nat) : (s.finish n).blkSz = s.blkSz := rfl
@[simp] theorem State.finish_cap (s : State) (n : Nat) : (s.finish n).cap = s.cap := rfl
@[simp] theorem State.finish_outCap (s : State) (n : Nat) : (s.finish n).outCap = s.outCap := rfl
@[simp] theorem State.finish_cbound (s : State) (n : Nat) : (s.finish n).cbound = s.cbound := rfl
@[simp] theorem State.writeOut_blkSz (s : State) (a : Nat) (bs : ByteString) : (s.writeOut a bs).blkSz = s.blkSz := rfl
@[simp] theorem State.writeOut_cap (s : State) (a : Nat) (bs : ByteString) : (s.writeOut a bs).cap = s.cap := rfl
@[simp] theorem State.writeOut_outCap (s : State) (a : Nat) (bs : ByteString) : (s.writeOut a bs).outCap = s.outCap := rfl
@[simp] theorem State.writeOut_cbound (s : State) (a : Nat) (bs : ByteString) : (s.writeOut a bs).cbound = s.cbound := rfl
@[simp] theorem State.setFb_blkSz (s : State) (v : ByteString) : (s.setFb v).blkSz = s.blkSz := rfl
@[simp] theorem State.setFb_cap (s : State) (v : ByteString) : (s.setFb v).cap = s.cap := rfl
@[simp] theorem State.setFb_outCap (s : State) (v : ByteString) : (s.setFb v).outCap = s.outCap := rfl
@[simp] theorem State.setFb_cbound (s : State) (v : ByteString) : (s.setFb v).cbound = s.cbound := rfl
@[simp] theorem State.drop_blkSz (s : State) (n : Nat) : (s.drop n).blkSz = s.blkSz := rfl
@[simp] theorem State.drop_cap (s : State) (n : Nat) : (s.drop n).cap = s.cap := rfl
@[simp] theorem State.drop_outCap (s : State) (n : Nat) : (s.drop n).outCap = s.outCap := rfl
@[simp] theorem State.drop_cbound (s : State) (n : Nat) : (s.drop n).cbound = s.cbound := rfl
@[simp] theorem State.dropPick_blkSz (s : State) : (s.dropPick).blkSz = s.blkSz := rfl
@[simp] theorem State.dropPick_cap (s : State) : (s.dropPick).cap = s.cap := rfl
@[simp] theorem State.dropPick_outCap (s : State) : (s.dropPick).outCap = s.outCap := rfl
@[simp] theorem State.dropPick_cbound (s : State) : (s.dropPick).cbound = s.cbound := rfl
@[simp] theorem State.retire_blkSz (s : State) (i : Nat) : (s.retire i).blkSz = s.blkSz := rfl
@[simp] theorem State.retire_cap (s : State) (i : Nat) : (s.retire i).cap = s.cap := rfl
@[simp] theorem State.retire_outCap (s : State) (i : Nat) : (s.retire i).outCap = s.outCap := rfl
@[simp] theorem State.retire_cbound (s : State) (i : Nat) : (s.retire i).cbound = s.cbound := rfl
@[simp] theorem State.putBlk_blkSz (s : State) (d : Dir) (m : Mode) (i : Nat) (v : ByteString) : (s.putBlk d m i v).blkSz = s.blkSz := rfl
@[simp] theorem State.putBlk_cap (s : State) (d : Dir) (m : Mode) (i : Nat) (v : ByteString) : (s.putBlk d m i v).cap = s.cap := rfl
@[simp] theorem State.putBlk_outCap (s : State) (d : Dir) (m : Mode) (i : Nat) (v : ByteString) : (s.putBlk d m i v).outCap = s.outCap := rfl
@[simp] theorem State.putBlk_cbound (s : State) (d : Dir) (m : Mode) (i : Nat) (v : ByteString) : (s.putBlk d m i v).cbound = s.cbound := rfl
@[simp] theorem State.see_blkSz (s : State) (x : HostAnswer) : (s.see x).blkSz = s.blkSz := rfl
@[simp] theorem State.see_cap (s : State) (x : HostAnswer) : (s.see x).cap = s.cap := rfl
@[simp] theorem State.see_outCap (s : State) (x : HostAnswer) : (s.see x).outCap = s.outCap := rfl
@[simp] theorem State.see_cbound (s : State) (x : HostAnswer) : (s.see x).cbound = s.cbound := rfl
@[simp] theorem State.popMove_blkSz (s : State) : (s.popMove).blkSz = s.blkSz := rfl
@[simp] theorem State.popMove_cap (s : State) : (s.popMove).cap = s.cap := rfl
@[simp] theorem State.popMove_outCap (s : State) : (s.popMove).outCap = s.outCap := rfl
@[simp] theorem State.popMove_cbound (s : State) : (s.popMove).cbound = s.cbound := rfl
@[simp] theorem State.choose_blkSz (s : State) (d : Dir) (m : Mode) : (s.choose d m).blkSz = s.blkSz := by unfold State.choose; split <;> rfl
@[simp] theorem State.choose_cap (s : State) (d : Dir) (m : Mode) : (s.choose d m).cap = s.cap := by unfold State.choose; split <;> rfl
@[simp] theorem State.choose_outCap (s : State) (d : Dir) (m : Mode) : (s.choose d m).outCap = s.outCap := by unfold State.choose; split <;> rfl
@[simp] theorem State.choose_cbound (s : State) (d : Dir) (m : Mode) : (s.choose d m).cbound = s.cbound := by unfold State.choose; split <;> rfl

end Sys2Proof.Machine
end

