-- ==== Sys2Proof/Laws/Memory.lean ====
section
/-!
SUPPORT. The laws of memory: a read after a write, the canonical form, and what the reads of a space see of each update.
-/

namespace Sys2Proof.Machine

@[simp] theorem Memory.get?_nil (a : Nat) : Memory.get? [] a = none := rfl

theorem Memory.get?_cons (b : Nat) (v : Byte) (m : Memory) (a : Nat) :
    Memory.get? ((b, v) :: m) a = if b = a then some v else Memory.get? m a := rfl

/-- A read after a write of one byte. -/
theorem Memory.get?_set (m : Memory) (a : Nat) (v : Byte) (x : Nat) :
    Memory.get? (Memory.set m a v) x = if x = a then some v else Memory.get? m x := by
  induction m with
  | nil => simp [Memory.set, Memory.get?_cons, eq_comm]
  | cons c rest ih =>
    obtain ⟨b, u⟩ := c
    simp only [Memory.set]
    split
    · simp [Memory.get?_cons, eq_comm]
    · split
      · subst_vars
        by_cases h : b = x
        · simp [Memory.get?_cons, h]
        · simp [Memory.get?_cons, h, Ne.symm h]
      · next hne =>
        by_cases h : b = x
        · subst h; simp [Memory.get?_cons, Ne.symm hne]
        · simp [Memory.get?_cons, h, ih]

/-- A read after a write of a byte string: the bytes written inside their range, the old ones outside it. -/
theorem Memory.get?_write (m : Memory) (a : Nat) (bs : ByteString) (x : Nat) :
    Memory.get? (Memory.write m a bs) x =
      if a ≤ x ∧ x < a + bs.length then bs[x - a]? else Memory.get? m x := by
  induction bs generalizing m a with
  | nil => simp [Memory.write, show ¬ (a ≤ x ∧ x < a) by omega]
  | cons v rest ih =>
    simp only [Memory.write, ih, Memory.get?_set, List.length_cons]
    by_cases hx : x = a
    · subst hx; simp
    · by_cases h : a + 1 ≤ x ∧ x < a + 1 + rest.length
      · rw [if_pos h, if_pos (by omega), show x - a = (x - (a + 1)) + 1 by omega, List.getElem?_cons_succ]
      · rw [if_neg h, if_neg hx, if_neg (by omega)]

theorem Memory.wf_cons (cap a : Nat) (v : Byte) (m : Memory) :
    Memory.wf cap ((a, v) :: m) = true ↔
      a < cap ∧ (∀ c ∈ m, a < c.1) ∧ Memory.wf cap m = true := by
  simp [Memory.wf, and_assoc]

/-- Where the cells of a memory after a write of one byte come from. -/
theorem Memory.mem_set {m : Memory} {a : Nat} {v : Byte} {c : Host.Cell} (h : c ∈ Memory.set m a v) :
    c.1 = a ∨ c ∈ m := by
  induction m with
  | nil => simp [Memory.set] at h; simp [h]
  | cons d rest ih =>
    obtain ⟨b, u⟩ := d
    simp only [Memory.set] at h
    split at h
    · rcases List.mem_cons.1 h with rfl | h
      · exact .inl rfl
      · exact .inr h
    · split at h
      · rcases List.mem_cons.1 h with rfl | h
        · exact .inl rfl
        · exact .inr (List.mem_cons_of_mem _ h)
      · rcases List.mem_cons.1 h with rfl | h
        · exact .inr (List.mem_cons_self ..)
        · rcases ih h with h | h
          · exact .inl h
          · exact .inr (List.mem_cons_of_mem _ h)

/-- A write of one byte inside the space keeps the canonical form. -/
theorem Memory.wf_set {cap : Nat} {m : Memory} {a : Nat} (v : Byte) (h : Memory.wf cap m = true) (ha : a < cap) :
    Memory.wf cap (Memory.set m a v) = true := by
  induction m with
  | nil => simp [Memory.set, Memory.wf, ha]
  | cons d rest ih =>
    obtain ⟨b, u⟩ := d
    have hc := (Memory.wf_cons ..).1 h
    simp only [Memory.set]
    split
    · next hab =>
      refine (Memory.wf_cons ..).2 ⟨ha, ?_, h⟩
      intro c hm
      rcases List.mem_cons.1 hm with rfl | hm
      · exact hab
      · exact lt_trans hab (hc.2.1 c hm)
    · split
      · next hab => exact (Memory.wf_cons ..).2 ⟨ha, hab ▸ hc.2.1, hc.2.2⟩
      · refine (Memory.wf_cons ..).2 ⟨hc.1, ?_, ih hc.2.2⟩
        intro c hm
        rcases Memory.mem_set hm with he | hm
        · omega
        · exact hc.2.1 c hm

/-- A write of a byte string inside the space keeps the canonical form. -/
theorem Memory.wf_write {cap : Nat} {m : Memory} {a : Nat} {bs : ByteString} (h : Memory.wf cap m = true)
    (ha : a + bs.length ≤ cap) : Memory.wf cap (Memory.write m a bs) = true := by
  induction bs generalizing m a with
  | nil => exact h
  | cons v rest ih =>
    simp only [List.length_cons] at ha
    exact ih (Memory.wf_set v h (by omega)) (by omega)

/-- A byte of a space depends on that space's memory and on the epoch alone. -/
theorem State.byteAt_congr {s t : State} {sp : Space} (hm : s.space sp = t.space sp)
    (he : s.free.epoch = t.free.epoch) (a : Nat) : s.byteAt sp a = t.byteAt sp a := by
  simp [State.byteAt, hm, he]

/-- R69: the bytes of OUTBUF after an engine write. -/
theorem State.byteAt_writeOut (s : State) (a : Nat) (bs : ByteString) (x : Nat) :
    (s.writeOut a bs).byteAt .outbuf x =
      if a ≤ x ∧ x < a + bs.length then bs.getD (x - a) 0 else s.byteAt .outbuf x := by
  simp only [State.byteAt, State.space, State.writeOut_outbuf, Memory.get?_write, State.writeOut_free]
  split
  · next h => simp [List.getD, List.getElem?_eq_getElem (show x - a < bs.length by omega)]
  · rfl

@[simp] theorem State.memRead_length (s : State) (sp : Space) (a n : Nat) : (s.memRead sp a n).length = n := by
  simp [State.memRead]

theorem State.memRead_getD (s : State) (sp : Space) (a n k : Nat) (h : k < n) :
    (s.memRead sp a n).getD k 0 = s.byteAt sp (a + k) := by
  simp [State.memRead, List.getD, h]

@[simp] theorem State.pBlk_length (s : State) (i : Nat) : (s.pBlk i).length = s.blkSz := by simp [State.pBlk]
@[simp] theorem State.cBlk_length (s : State) (m : Mode) (i : Nat) : (s.cBlk m i).length = s.blkSz := by
  simp [State.cBlk]
@[simp] theorem State.getBlk_length (s : State) (i : Nat) : (s.getBlk i).length = s.blkSz := by simp [State.getBlk]
@[simp] theorem State.iv_length (s : State) : s.iv.length = s.blkSz := by simp [State.iv]

end Sys2Proof.Machine
end

