-- ==== Sys2Proof/Laws/Bytes.lean ====
section
/-!
SUPPORT. The laws of byte strings (R9, R10) and of the two ports (R240, R243).
-/

namespace Sys2Proof.Machine

@[simp] theorem xor_length (s t : ByteString) : (xor s t).length = min s.length t.length := by simp [xor]

theorem xor_getElem? (s t : ByteString) (k : Nat) (hs : k < s.length) (ht : k < t.length) :
    (xor s t)[k]? = some (s[k] ^^^ t[k]) := by
  simp [xor, hs, ht]

theorem xor_comm (s t : ByteString) : xor s t = xor t s := by
  simp only [xor]
  rw [List.zipWith_comm]
  congr 1
  funext a b
  exact BitVec.xor_comm b a

/-- R9: XOR is associative. -/
theorem xor_assoc (s t u : ByteString) : xor (xor s t) u = xor s (xor t u) := by
  apply List.ext_getElem
  · simp [min_assoc]
  · intro k h1 h2
    simp [xor, BitVec.xor_assoc]

/-- R9: `(x ^ k) ^ k = x` for blocks of one length. -/
theorem xor_cancel {s t : ByteString} (h : s.length = t.length) : xor (xor s t) t = s := by
  apply List.ext_getElem
  · simp [h]
  · intro k h1 h2
    simp [xor]

@[simp] theorem tobe_length (len n : Nat) : (tobe len n).length = len := by simp [tobe]

@[simp] theorem addbe_length (b : ByteString) (n : Nat) : (addbe b n).length = b.length := by simp [addbe]

@[simp] theorem State.ctr_length (s : State) (i : Nat) : (s.ctr i).length = s.blkSz := by simp [State.ctr]

@[simp] theorem State.rndBytes_length (s : State) (n : Nat) : (s.rndBytes n).length = n := by simp [State.rndBytes]

theorem portAnswer_length {size : Nat} {f : PortFn} {x y : ByteString} (h : portAnswer size f x = some y) :
    y.length = size := by
  simp only [portAnswer, Option.filter_eq_some_iff] at h
  simpa using h.2

/-- R240: what `CipherEnc` answers is a block. -/
theorem State.cipherEnc_length {s : State} {x y : ByteString} (h : s.cipherEnc x = some y) : y.length = s.blkSz := by
  unfold State.cipherEnc at h
  cases hc : s.plat.cipher with
  | none => simp [hc] at h
  | some c =>
    simp only [hc, Option.bind_some] at h
    simp [State.blkSz, blockSizeOf, hc, portAnswer_length h]

/-- R240: what `CipherDec` answers is a block. -/
theorem State.cipherDec_length {s : State} {x y : ByteString} (h : s.cipherDec x = some y) : y.length = s.blkSz := by
  unfold State.cipherDec at h
  cases hc : s.plat.cipher with
  | none => simp [hc] at h
  | some c =>
    simp only [hc, Option.bind_some] at h
    simp [State.blkSz, blockSizeOf, hc, portAnswer_length h]

/-- The port answers a function of the platform and the block alone (R240). -/
theorem State.cipherEnc_congr {s t : State} (h : s.plat = t.plat) (x : ByteString) : s.cipherEnc x = t.cipherEnc x := by
  simp [State.cipherEnc, h]

theorem State.cipherDec_congr {s t : State} (h : s.plat = t.plat) (x : ByteString) : s.cipherDec x = t.cipherDec x := by
  simp [State.cipherDec, h]

end Sys2Proof.Machine
end

