-- ==== Sys2Proof/Laws/Operate.lean ====
section
/-!
SUPPORT. What an engine step of a command can do, said once: exec is `operate` over the command's block rule, the 14 block rules
have one shape (one request, one block written, one value of FB), and one lemma per phase.
-/

namespace Sys2Proof.Machine

/-- The block rule of a command. -/
def ruleOf (i : Instr) : Nat → State → Option State :=
  match i with
  | .encEcb _ _ => encEcbBlock
  | .encCbc _ _ => encCbcBlock
  | .encPcbc _ _ => encPcbcBlock
  | .encCfb _ _ => encCfbBlock
  | .encOfb _ _ => encOfbBlock
  | .encCtr _ _ => encCtrBlock
  | .encRd _ _ => encRdBlock
  | .decEcb _ _ => decEcbBlock
  | .decCbc _ _ => decCbcBlock
  | .decPcbc _ _ => decPcbcBlock
  | .decCfb _ _ => decCfbBlock
  | .decOfb _ _ => decOfbBlock
  | .decCtr _ _ => decCtrBlock
  | .decRd _ _ => decRdBlock

/-- The block a rule writes, `y` being the cipher's answer. -/
def blockValue (i : Instr) (k : Nat) (s : State) (y : ByteString) : ByteString :=
  match i with
  | .encEcb _ _ | .encCbc _ _ | .encPcbc _ _ | .encRd _ _ | .decEcb _ _ | .decCbc _ _ => y
  | .encCfb _ _ | .encOfb _ _ | .encCtr _ _ => xor (s.pBlk k) y
  | .decCfb _ _ => xor (s.cBlk .cfb k) y
  | .decOfb _ _ => xor (s.cBlk .ofb k) y
  | .decCtr _ _ => xor (s.cBlk .ctr k) y
  | .decPcbc _ _ | .decRd _ _ => xor y s.fb

/-- The value of FB after a rule, `y` being the cipher's answer. -/
def blockFb (i : Instr) (k : Nat) (s : State) (y : ByteString) : ByteString :=
  match i with
  | .encEcb _ _ | .decEcb _ _ | .decCbc _ _ | .encCtr _ _ | .decCtr _ _ => s.fb
  | .encCbc _ _ | .encOfb _ _ | .decOfb _ _ => y
  | .encPcbc _ _ => xor (s.pBlk k) y
  | .encCfb _ _ => xor (s.pBlk k) y
  | .decCfb _ _ => s.cBlk .cfb k
  | .decPcbc _ _ => xor (xor y s.fb) (s.cBlk .pcbc k)
  | .encRd _ _ => xor s.fb y
  | .decRd _ _ => xor s.fb (s.cBlk .rd k)

theorem exec_eq_operate (i : Instr) (s : State) : exec i s = operate i (ruleOf i) s := by cases i <;> rfl

/-- The shape of the 14 block rules. -/
theorem ruleOf_eq (i : Instr) (k : Nat) (s : State) :
    ruleOf i k s = (blockRequest i k s).map fun y =>
      (s.putBlk i.dir i.mode k (blockValue i k s y)).setFb (blockFb i k s y) := by
  cases i <;> rfl

section phases
variable {i : Instr} {s : State}

theorem exec_idle (h : s.phase = .idle) : exec i s = .next (s.accept (encode i)) := by
  simp [exec_eq_operate, operate, h]

theorem exec_check (h : s.phase = .check) : exec i s = .next (s.checkStep i.dir i.mode) := by
  simp [exec_eq_operate, operate, h]

theorem exec_pad (h : s.phase = .pad) (hd : i.dir = .enc) : exec i s = .next (s.padStep i.pad) := by
  simp [exec_eq_operate, operate, h, hd]

theorem exec_init (h : s.phase = .init) (hs : s.spacesHold i.dir i.mode = true) :
    exec i s = .next (s.initStep i.dir i.mode) := by
  simp [exec_eq_operate, operate, h, hs]

theorem exec_blocks (h : s.phase = .blocks) (hs : s.blockHolds i.dir i.mode = true) :
    exec i s = .next (s.blocksStep i.dir i.mode (ruleOf i)) := by
  simp [exec_eq_operate, operate, h, hs]

theorem exec_combine (h : s.phase = .combine) (hd : i.dir = .dec) (hm : i.mode = .cbc)
    (hs : s.blockHolds .dec .cbc = true) : exec i s = .next s.combineStep := by
  simp [exec_eq_operate, operate, h, hd, hm, hs]

theorem exec_unpad (h : s.phase = .unpad) (hd : i.dir = .dec) (hs : s.spacesHold .dec i.mode = true) :
    exec i s = .next (s.unpadStep i.pad) := by
  simp [exec_eq_operate, operate, h, hd, hs]

end phases

/-- Everything a next state of exec can be, one case per phase. -/
theorem exec_cases {i : Instr} {s t : State} (h : exec i s = .next t) :
    (s.phase = .idle ∧ t = s.accept (encode i)) ∨
    (s.phase = .check ∧ t = s.checkStep i.dir i.mode) ∨
    (s.phase = .pad ∧ i.dir = .enc ∧ t = s.padStep i.pad) ∨
    (s.phase = .init ∧ s.spacesHold i.dir i.mode = true ∧ t = s.initStep i.dir i.mode) ∨
    (s.phase = .blocks ∧ s.blockHolds i.dir i.mode = true ∧ t = s.blocksStep i.dir i.mode (ruleOf i)) ∨
    (s.phase = .combine ∧ i.dir = .dec ∧ i.mode = .cbc ∧ s.blockHolds i.dir i.mode = true ∧ t = s.combineStep) ∨
    (s.phase = .unpad ∧ i.dir = .dec ∧ s.spacesHold i.dir i.mode = true ∧ t = s.unpadStep i.pad) := by
  rw [exec_eq_operate] at h
  unfold operate at h
  split at h
  · injection h with h; simp_all
  · injection h with h; simp_all
  all_goals split at h <;> try split at h
  all_goals first | (injection h with h; simp_all) | injection h

/-- Everything a BLOCKS step can do: close the phase, run the block rule, or end in CipherError. -/
theorem blocksStep_cases (i : Instr) (s : State) :
    (s.pending = [] ∧ s.blocksStep i.dir i.mode (ruleOf i) = s.closeBlocks i.dir i.mode) ∨
    (s.pending ≠ [] ∧ ∃ y, blockRequest i (s.nextIndex i.dir i.mode) (s.choose i.dir i.mode) = some y ∧
      s.blocksStep i.dir i.mode (ruleOf i) =
        (((s.choose i.dir i.mode).putBlk i.dir i.mode (s.nextIndex i.dir i.mode)
          (blockValue i (s.nextIndex i.dir i.mode) (s.choose i.dir i.mode) y)).setFb
          (blockFb i (s.nextIndex i.dir i.mode) (s.choose i.dir i.mode) y)).retire (s.nextIndex i.dir i.mode)) ∨
    (s.pending ≠ [] ∧ blockRequest i (s.nextIndex i.dir i.mode) (s.choose i.dir i.mode) = none ∧
      s.blocksStep i.dir i.mode (ruleOf i) = (s.choose i.dir i.mode).raise .cipher) := by
  by_cases hp : s.pending = []
  · exact .inl ⟨hp, by simp [State.blocksStep, hp]⟩
  · refine .inr ?_
    cases hr : blockRequest i (s.nextIndex i.dir i.mode) (s.choose i.dir i.mode) with
    | some y => exact .inl ⟨hp, y, rfl, by simp [State.blocksStep, hp, ruleOf_eq, hr]⟩
    | none => exact .inr ⟨hp, rfl, by simp [State.blocksStep, hp, ruleOf_eq, hr]⟩

/-- The free choice of R203 changes nothing a block rule reads. -/
theorem State.byteAt_choose (s : State) (d : Dir) (m : Mode) (sp : Space) (a : Nat) :
    (s.choose d m).byteAt sp a = s.byteAt sp a := by
  unfold State.choose
  split <;> rfl

theorem blockRequest_choose (i : Instr) (k : Nat) (s : State) (d : Dir) (m : Mode) :
    blockRequest i k (s.choose d m) = blockRequest i k s := by
  unfold State.choose
  split
  · cases i <;> rfl
  · rfl

theorem blockValue_choose (i : Instr) (k : Nat) (s : State) (d : Dir) (m : Mode) (y : ByteString) :
    blockValue i k (s.choose d m) y = blockValue i k s y := by
  unfold State.choose
  split
  · cases i <;> rfl
  · rfl

theorem blockFb_choose (i : Instr) (k : Nat) (s : State) (d : Dir) (m : Mode) (y : ByteString) :
    blockFb i k (s.choose d m) y = blockFb i k s y := by
  unfold State.choose
  split
  · cases i <;> rfl
  · rfl

/-- R240: what the cipher answers to a block rule is a block. -/
theorem blockRequest_length {i : Instr} {k : Nat} {s : State} {y : ByteString} (h : blockRequest i k s = some y) :
    y.length = s.blkSz := by
  cases i <;> first | exact State.cipherEnc_length h | exact State.cipherDec_length h

theorem blockValue_length {i : Instr} {k : Nat} {s : State} {y : ByteString} (hy : y.length = s.blkSz)
    (hf : usesFb i.dir i.mode = true → s.fb.length = s.blkSz) : (blockValue i k s y).length = s.blkSz := by
  cases i <;> simp_all [blockValue, usesFb, Instr.dir, Instr.mode]

theorem blockFb_length {i : Instr} {k : Nat} {s : State} {y : ByteString} (hy : y.length = s.blkSz)
    (hf : usesFb i.dir i.mode = true → s.fb.length = s.blkSz) (hu : usesFb i.dir i.mode = true) :
    (blockFb i k s y).length = s.blkSz := by
  cases i <;> simp_all [blockFb, usesFb, Instr.dir, Instr.mode]

end Sys2Proof.Machine
end

