-- ==== Sys2Proof/Laws/Padding.lean ====
section
/-!
SUPPORT. What the padding unit computes, said once: PADLEN fills the last block (R121 to R124), the validators (R126 to R130),
and what is left of the randomness after a draw (R243).
-/

namespace Sys2Proof.Machine

/-- R121 to R124: message and pad make whole blocks; the pad is at most a block, and at least a byte in a counted scheme. -/
theorem padLen_spec (p : PadScheme) (b n : Nat) (hb : 1 ≤ b) :
    (n + padLen p b n) % b = 0 ∧ padLen p b n ≤ b ∧ (p ≠ .zeros → 1 ≤ padLen p b n) := by
  have h1 := Nat.mod_lt n (show b > 0 by omega)
  have h2 : (n + (b - n % b)) % b = 0 := by
    have : n + (b - n % b) = b * (n / b) + b := by have := Nat.div_add_mod n b; omega
    rw [this]; simp
  cases p
  case zeros =>
    simp only [padLen]
    split
    · next h => exact ⟨by simpa using h, by omega, by simp⟩
    · exact ⟨h2, by omega, by simp⟩
  all_goals exact ⟨h2, Nat.sub_le .., fun _ => by simp only [padLen]; omega⟩

/-- R33: NBLK blocks are the message and its pad. -/
theorem padLen_blocks (p : PadScheme) (b n : Nat) (hb : 1 ≤ b) :
    (n + padLen p b n) / b * b = n + padLen p b n :=
  Nat.div_mul_cancel (Nat.dvd_of_mod_eq_zero (padLen_spec p b n hb).1)

/-- R120: the pad has PADLEN bytes. -/
theorem padBytes_length (p : PadScheme) (len : Nat) (d : ByteString) (hd : d.length = padDraws p len)
    (h1 : p ≠ .zeros → 1 ≤ len) : (padBytes p len d).length = len := by
  cases p <;> simp_all [padBytes, padDraws]

/-- R126: the stripped length is the largest one, at most `n`, that is 0 or ends in a nonzero byte. -/
theorem stripZeros_spec (t : Nat → Byte) (n : Nat) :
    stripZeros t n ≤ n ∧ (stripZeros t n = 0 ∨ t (stripZeros t n - 1) ≠ 0) ∧
      ∀ a, stripZeros t n ≤ a → a < n → t a = 0 := by
  induction n with
  | zero => exact ⟨Nat.le_refl _, .inl rfl, fun a _ h => absurd h (Nat.not_lt_zero a)⟩
  | succ n ih =>
    simp only [stripZeros]
    split
    · next h =>
      refine ⟨Nat.le_succ_of_le ih.1, ih.2.1, fun a h1 h2 => ?_⟩
      rcases Nat.lt_succ_iff_lt_or_eq.1 h2 with h3 | rfl
      · exact ih.2.2 a h1 h3
      · exact h
    · next h => exact ⟨Nat.le_refl _, .inr h, fun a h1 h2 => absurd h2 (by omega)⟩

/-- R127 to R130: a counted validator answers the content less the count in its last byte, or refuses. -/
theorem stripCounted_some {b n len : Nat} {t : Nat → Byte} (h : stripCounted b n t = some len) :
    n ≠ 0 ∧ 1 ≤ (t (n - 1)).toNat ∧ (t (n - 1)).toNat ≤ b ∧ len = n - (t (n - 1)).toNat := by
  unfold stripCounted at h
  split at h
  · cases h
  · dsimp only at h
    split at h
    · cases h
    · injection h; omega

/-- R125: an unpadded result is no longer than the content. -/
theorem unpadLen_le {p : PadScheme} {b n len : Nat} {t : Nat → Byte} (h : unpadLen p b n t = some len) : len ≤ n := by
  cases p
  case zeros => injection h with h; rw [← h]; exact (stripZeros_spec t n).1
  all_goals have := (stripCounted_some h).2.2.2; omega

/-- R243: the bytes yielded after n draws are the ones from place n on. -/
theorem State.rndAt_drop (s : State) (n k : Nat) : (s.drop n).rndAt k = s.rndAt (n + k) := by
  simp [State.rndAt, State.drop, Nat.add_assoc]

end Sys2Proof.Machine
end

