-- ==== Sys2Proof/Laws/PerInstr.lean ====
section
/-!
SUPPORT. The family of statements made per instruction: the word of a command carries the match bits of its row of
spec/opcode_table.json and is legal.
-/

namespace Sys2Proof.Laws.RowMatch

/-- R96: the match value of a command's row, under the mask 0xF0F0. -/
def row : Instr → Word
  | .encEcb _ _ => 0x1000
  | .encCbc _ _ => 0x1010
  | .encPcbc _ _ => 0x1020
  | .encCfb _ _ => 0x1030
  | .encOfb _ _ => 0x1040
  | .encCtr _ _ => 0x1050
  | .encRd _ _ => 0x1060
  | .decEcb _ _ => 0x2000
  | .decCbc _ _ => 0x2010
  | .decPcbc _ _ => 0x2020
  | .decCfb _ _ => 0x2030
  | .decOfb _ _ => 0x2040
  | .decCtr _ _ => 0x2050
  | .decRd _ _ => 0x2060

/-- R96, R97: the command's word, with every OPT and PAD, is a legal word of its row. -/
def Statement (i : Instr) : Prop :=
  encode i &&& 0xF0F0 = row i ∧ legalWord (encode i) = true

theorem encEcb (opt : BitVec 4) (pad : PadScheme) : Statement (.encEcb opt pad) := by
  revert opt; cases pad <;> unfold Statement <;> decide
theorem encCbc (opt : BitVec 4) (pad : PadScheme) : Statement (.encCbc opt pad) := by
  revert opt; cases pad <;> unfold Statement <;> decide
theorem encPcbc (opt : BitVec 4) (pad : PadScheme) : Statement (.encPcbc opt pad) := by
  revert opt; cases pad <;> unfold Statement <;> decide
theorem encCfb (opt : BitVec 4) (pad : PadScheme) : Statement (.encCfb opt pad) := by
  revert opt; cases pad <;> unfold Statement <;> decide
theorem encOfb (opt : BitVec 4) (pad : PadScheme) : Statement (.encOfb opt pad) := by
  revert opt; cases pad <;> unfold Statement <;> decide
theorem encCtr (opt : BitVec 4) (pad : PadScheme) : Statement (.encCtr opt pad) := by
  revert opt; cases pad <;> unfold Statement <;> decide
theorem encRd (opt : BitVec 4) (pad : PadScheme) : Statement (.encRd opt pad) := by
  revert opt; cases pad <;> unfold Statement <;> decide
theorem decEcb (opt : BitVec 4) (pad : PadScheme) : Statement (.decEcb opt pad) := by
  revert opt; cases pad <;> unfold Statement <;> decide
theorem decCbc (opt : BitVec 4) (pad : PadScheme) : Statement (.decCbc opt pad) := by
  revert opt; cases pad <;> unfold Statement <;> decide
theorem decPcbc (opt : BitVec 4) (pad : PadScheme) : Statement (.decPcbc opt pad) := by
  revert opt; cases pad <;> unfold Statement <;> decide
theorem decCfb (opt : BitVec 4) (pad : PadScheme) : Statement (.decCfb opt pad) := by
  revert opt; cases pad <;> unfold Statement <;> decide
theorem decOfb (opt : BitVec 4) (pad : PadScheme) : Statement (.decOfb opt pad) := by
  revert opt; cases pad <;> unfold Statement <;> decide
theorem decCtr (opt : BitVec 4) (pad : PadScheme) : Statement (.decCtr opt pad) := by
  revert opt; cases pad <;> unfold Statement <;> decide
theorem decRd (opt : BitVec 4) (pad : PadScheme) : Statement (.decRd opt pad) := by
  revert opt; cases pad <;> unfold Statement <;> decide

end Sys2Proof.Laws.RowMatch
end

