-- ==== Sys2Proof/Laws/Run.lean ====
section
/-!
SUPPORT. Runs of the machine: a first step and a run make a run, and every run of at least one step is made so.
-/

namespace Sys2Proof.Machine

/-- A run of any core, by its first step. -/
theorem coreRun_next {M : Host.Core} {n : Nat} {s u : M.State} (h : M.step s = .next u) : M.run (n + 1) s = M.run n u := by
  simp [Host.Core.run, h]

theorem runs_zero (s : State) : runs 0 s s := rfl

theorem runs_succ {n : Nat} {s u t : State} (h : step s = .next u) (hr : runs n u t) : runs (n + 1) s t :=
  (coreRun_next (M := core) h).trans hr

/-- Everything a run of at least one step can be. -/
theorem runs_cases {n : Nat} {s t : State} (h : runs (n + 1) s t) : ∃ u, step s = .next u ∧ runs n u t := by
  cases hs : step s with
  | next u => exact ⟨u, rfl, (coreRun_next (M := core) hs).symm.trans h⟩
  | fault r =>
    have hr : Host.Core.run core (n + 1) s = .fault r := by
      simp only [Host.Core.run]; rw [show Host.Core.step core s = .fault r from hs]
    exact absurd (hr.symm.trans h) (by simp)
  | refused r =>
    have hr : Host.Core.run core (n + 1) s = .refused r := by
      simp only [Host.Core.run]; rw [show Host.Core.step core s = .refused r from hs]
    exact absurd (hr.symm.trans h) (by simp)

/-- Two runs, one after the other. -/
theorem runs_trans {n m : Nat} {s u t : State} (h : runs n s u) (hr : runs m u t) : runs (n + m) s t := by
  induction n generalizing s with
  | zero => injection h with h; subst h; rw [Nat.zero_add]; exact hr
  | succ n ih =>
    obtain ⟨v, hs, hv⟩ := runs_cases h
    rw [Nat.add_right_comm]
    exact runs_succ hs (ih hv)

end Sys2Proof.Machine
end

