-- ==== Sys2Proof/Laws/Sequencer.lean ====
section
/-!
SUPPORT. The sequencer's shared operations, said once: the outcomes of CHECK and INIT, the operand conditions as
propositions, the index a block step takes, and the ranges of a well-formed platform.
-/

namespace Sys2Proof.Machine

/-- R6: the ranges of the parameters. -/
theorem platform_ranges {p : Platform} (h : p.wellFormed = true) :
    1 ≤ p.cap ∧ p.cap + 510 < 2 ^ 32 ∧ blockSizeOf p ≤ 255 ∧ (p.cipher.isSome → 1 ≤ blockSizeOf p) := by
  simp only [Platform.wellFormed, Bool.and_eq_true, decide_eq_true_eq] at h
  refine ⟨h.1.2, h.2, ?_, ?_⟩
  all_goals
    have := h.1.1
    cases hc : p.cipher <;> simp [blockSizeOf, hc]
    simp [hc, Cipher.wellFormed] at this
    omega

/-- Everything a CHECK step can do (R191). -/
theorem State.checkStep_cases (s : State) (d : Dir) (m : Mode) :
    (∃ e, (e = .configuration ∨ e = .input ∨ e = .iv) ∧ s.checkStep d m = s.raise e) ∨
    (s.cbound = true ∧ (d = .dec → s.inputBad m = false) ∧ s.ivBad m = false ∧
      ((d = .enc ∧ s.checkStep d m = { s with phase := .pad }) ∨
       (d = .dec ∧ s.checkStep d m =
          { s with nblk := s.inlen.toNat / s.blkSz - (if m = .rd then 1 else 0), padlen := 0, phase := .init }))) := by
  unfold State.checkStep
  split
  · exact .inl ⟨_, .inl rfl, rfl⟩
  · split
    · exact .inl ⟨_, .inr (.inl rfl), rfl⟩
    · split
      · exact .inl ⟨_, .inr (.inr rfl), rfl⟩
      · cases d <;> simp_all

/-- Everything the FB load of an INIT step can be (R199). -/
theorem State.loadFb_cases (s : State) (d : Dir) (m : Mode) :
    (usesFb d m = false ∧ m ≠ .rd ∧ s.loadFb d m = s) ∨
    (usesFb d m = true ∧ m ≠ .rd ∧ s.loadFb d m = s.setFb s.iv) ∨
    (d = .enc ∧ m = .rd ∧ s.loadFb d m = s.drawSeed) ∨
    (d = .dec ∧ m = .rd ∧ s.loadFb d m = s.setFb (s.memRead .inbuf 0 s.blkSz)) := by
  cases d <;> cases m <;> simp [State.loadFb, usesFb]

/-- R66: when the operands of an ENC step exist. -/
theorem State.spacesHold_enc (s : State) (m : Mode) : s.spacesHold .enc m = true ↔
    s.blkSz ≤ 256 ∧ s.inlen.toNat ≤ s.cap ∧ s.seedOff m + s.nblk * s.blkSz ≤ s.outCap ∧
      s.nblk * s.blkSz ≤ s.inlen.toNat + s.padlen ∧ s.padlen ≤ s.tail.length := by
  have h256 : ivCap = 256 := rfl
  simp only [State.spacesHold, h256, Bool.and_eq_true, decide_eq_true_iff]
  tauto

/-- R66: when the operands of a DEC step exist. -/
theorem State.spacesHold_dec (s : State) (m : Mode) : s.spacesHold .dec m = true ↔
    s.blkSz ≤ 256 ∧ s.inlen.toNat ≤ s.cap ∧ s.seedOff m + s.nblk * s.blkSz ≤ s.cap ∧
      s.nblk * s.blkSz ≤ s.outCap := by
  have h256 : ivCap = 256 := rfl
  simp only [State.spacesHold, h256, Bool.and_eq_true, decide_eq_true_iff]
  tauto

/-- R66: a result block lies inside OUTBUF. -/
theorem State.outAddr_fits {s : State} {d : Dir} {m : Mode} (h : s.spacesHold d m = true) {k : Nat} (hk : k < s.nblk) :
    s.outAddr d m k + s.blkSz ≤ s.outCap := by
  have : k * s.blkSz + s.blkSz ≤ s.nblk * s.blkSz := by rw [← Nat.succ_mul]; exact Nat.mul_le_mul_right _ hk
  cases d
  · rw [State.spacesHold_enc] at h; change s.seedOff m + k * s.blkSz + s.blkSz ≤ _; omega
  · rw [State.spacesHold_dec] at h; change k * s.blkSz + s.blkSz ≤ _; omega

/-- R203: a block step takes a pending index. -/
theorem State.nextIndex_mem (s : State) (d : Dir) (m : Mode) (h : s.pending ≠ []) : s.nextIndex d m ∈ s.pending := by
  have hl : 0 < s.pending.length := List.length_pos_iff.2 h
  obtain ⟨k, hk⟩ : ∃ k, s.pending.min? = some k := by
    cases hm : s.pending.min? with
    | none => exact absurd (List.min?_eq_none_iff.1 hm) h
    | some k => exact ⟨k, rfl⟩
  unfold State.nextIndex
  split
  · have := Nat.mod_lt s.pick hl
    simp [List.getD, this]
  · simp [hk, (List.min?_eq_some_iff.1 hk).1]

end Sys2Proof.Machine
end

