-- ==== Sys2Proof/Tests/Slice0.lean ====
section
/-!
SUPPORT. Tests of single steps, their expected results taken from 95_test_vectors.md (V1 to V8, P1 to P6), and for each
statement with hypotheses a witness (`witness_…`) that meets them together.
-/

namespace Sys2Proof.Tests

open Sys2Proof Sys2Proof.Machine

/-! ## Well-formedness and decoding -/

/-- R97: an ill-formed word for each field, OPC below and above its range. -/
theorem test_legalWord_refuses : legalWord 0x0011 = false ∧ legalWord 0x3011 = false ∧ legalWord 0x1071 = false ∧
    legalWord 0x1014 = false ∧ legalWord 0xFFFF = false ∧ legalWord 0x2F63 = true := by decide

/-- U8: block sizes 0 and 256 are refused, 1 and 255 are not. -/
theorem test_cipher_wellFormed : Cipher.wellFormed ⟨0, ⟨0, []⟩, ⟨0, []⟩⟩ = false ∧
    Cipher.wellFormed ⟨256, ⟨0, []⟩, ⟨0, []⟩⟩ = false ∧ Cipher.wellFormed ⟨1, ⟨0, []⟩, ⟨0, []⟩⟩ = true ∧
    Cipher.wellFormed ⟨255, ⟨0, []⟩, ⟨0, []⟩⟩ = true := by decide

/-- R6, U9: CAP is at least 1 and CAP + 510 fits 32 bits; an attached cipher is well-formed. -/
theorem test_platform_wellFormed : Platform.wellFormed ⟨none, 0, 0, true⟩ = false ∧
    Platform.wellFormed ⟨none, 4294966786, 0, true⟩ = false ∧ Platform.wellFormed ⟨none, 4294966785, 1, false⟩ = true ∧
    Platform.wellFormed ⟨some ⟨0, ⟨0, []⟩, ⟨0, []⟩⟩, 64, 0, true⟩ = false := by decide

/-- R96: one word of each ENC command, OPT and PAD of their own. -/
theorem test_decode_enc : decode 0x1000 = .ok (.encEcb 0 .zeros) ∧ decode 0x1F11 = .ok (.encCbc 15 .pkcs7) ∧
    decode 0x1022 = .ok (.encPcbc 0 .ansix923) ∧ decode 0x1033 = .ok (.encCfb 0 .iso10126) ∧
    decode 0x1840 = .ok (.encOfb 8 .zeros) ∧ decode 0x1151 = .ok (.encCtr 1 .pkcs7) ∧
    decode 0x1062 = .ok (.encRd 0 .ansix923) := by decide

/-- R96: one word of each DEC command. -/
theorem test_decode_dec : decode 0x2003 = .ok (.decEcb 0 .iso10126) ∧ decode 0x2410 = .ok (.decCbc 4 .zeros) ∧
    decode 0x2021 = .ok (.decPcbc 0 .pkcs7) ∧ decode 0x2232 = .ok (.decCfb 2 .ansix923) ∧
    decode 0x2041 = .ok (.decOfb 0 .pkcs7) ∧ decode 0x2052 = .ok (.decCtr 0 .ansix923) ∧
    decode 0x2963 = .ok (.decRd 9 .iso10126) := by decide

/-- V1: the illegal words, each by its first bad field. -/
theorem test_decode_illegal : decode 0x0000 = .error .unsupportedOpc ∧ decode 0x3011 = .error .unsupportedOpc ∧
    decode 0x1071 = .error .unsupportedMode ∧ decode 0x1014 = .error .unsupportedPad ∧
    decode 0xFFFF = .error .unsupportedOpc := by decide

/-- R90: the encoder, on the words of V1. -/
theorem test_encode : encode (.encCbc 15 .pkcs7) = 0x1F11 ∧ encode (.decRd 9 .iso10126) = 0x2963 ∧
    encode (.decCtr 0 .ansix923) = 0x2052 := by decide

theorem test_decodeTableWord : decodeTableWord 16 0x2963 = some (.decRd 9 .iso10126) ∧
    decodeTableWord 16 0x1071 = none := by decide

/-! ## Small states -/

/-- A cipher direction that answers `y` to `x`; every other answer is free. -/
def answers (x y : ByteString) : PortFn := { key := 0, known := [(x, some y)] }

/-- A cipher direction of which nothing is known. -/
def noAnswers : PortFn := { key := 0, known := [] }

/-- Just after reset, cipher attached, CAP = 64, CTR_BASE = 0, RD_NEEDS_IV = true (95_test_vectors.md section 4). -/
def base (b : Nat) (e d : PortFn) : State :=
  State.resetOn { cipher := some { size := b, enc := e, dec := d }, cap := 64, ctrBase := 0, rdNeedsIv := true }

/-- After LOAD and SETIV. -/
def loaded (s : State) (msg iv : ByteString) : State :=
  { s with
    inbuf := Memory.write [] 0 msg, inlen := BitVec.ofNat 32 msg.length
    ivmem := Memory.write [] 0 iv, ivlen := BitVec.ofNat 9 iv.length }

/-- A busy engine in a phase of the command word `w`. -/
def busyIn (w : Word) (p : Phase) (s : State) : State := { s with ctx := w, busy := true, phase := p }

/-- The host has one move pending. -/
def withMove (m : HostMove) (s : State) : State := { s with host := { todo := [m], seen := [] } }

/-- The next state of an outcome. -/
def nextOf (o : Host.Outcome State Fault Refusal) : Option State :=
  match o with
  | .next t => some t
  | .fault _ => none
  | .refused _ => none

theorem next_of_isSome {o : Host.Outcome State Fault Refusal} (h : (nextOf o).isSome = true) :
    o = .next ((nextOf o).getD State.reset) := by
  cases o <;> simp [nextOf] at h ⊢

/-- The IV of V5 to V7. -/
def vIv : ByteString := [0x01, 0x02, 0x03, 0x04]

/-- The message of V5 to V7. -/
def vMessage : ByteString := [0x00, 0x11, 0x22, 0x33, 0x44, 0x55, 0x66, 0x77]

/-- BLOCKS of an ENC operation of V5 to V7, blocks 1 and 2 pending. -/
def encMid (w : Word) (e d : PortFn) (fb : ByteString) : State :=
  { busyIn w .blocks (loaded (base 4 e d) vMessage vIv) with
    pending := [1, 2], nblk := 3, padlen := 4, tail := [4, 4, 4, 4], fb := fb
    free := { State.reset.free with picks := [0] } }

/-- BLOCKS of a DEC operation of V5 to V7 on the ciphertext `c`, blocks 1 and 2 pending. -/
def decMid (w : Word) (e d : PortFn) (c fb : ByteString) : State :=
  { busyIn w .blocks (loaded (base 4 e d) c vIv) with
    pending := [1, 2], nblk := 3, fb := fb, free := { State.reset.free with picks := [0] } }

/-- Block at an OUTBUF address, FB and PENDING after a step. -/
def seenAfter (a : Nat) (o : Host.Outcome State Fault Refusal) : Option (ByteString × ByteString × List Nat) :=
  (nextOf o).map fun t => (t.memRead .outbuf a 4, t.fb, t.pending)

/-! ## One block step of each command, with its witness (cipher T4) -/

def encEcbState : State := encMid 0x1001 (answers [0x44, 0x55, 0x66, 0x77] [0x5A, 0x96, 0x22, 0xEE]) noAnswers [0x00, 0x00, 0x00, 0x00]
/-- V5.1, block 1. -/
theorem test_encEcb_block : seenAfter 4 (exec (.encEcb 0 .pkcs7) encEcbState) = some ([0x5A, 0x96, 0x22, 0xEE], [0x00, 0x00, 0x00, 0x00], [2]) := by decide

theorem witness_encEcb_block : BlockReady (.encEcb 0 .pkcs7) encEcbState ∧ encEcbState.nextIndex .enc .ecb = 1 ∧
    encEcbState.cipherEnc (encEcbState.pBlk 1) = some [0x5A, 0x96, 0x22, 0xEE] := by unfold BlockReady; decide

def encCbcState : State := encMid 0x1011 (answers [0x58, 0x84, 0x04, 0xDC] [0x8B, 0xF4, 0x89, 0xF2]) noAnswers [0x1C, 0xD1, 0x62, 0xAB]
/-- V5.2, block 1. -/
theorem test_encCbc_block : seenAfter 4 (exec (.encCbc 0 .pkcs7) encCbcState) = some ([0x8B, 0xF4, 0x89, 0xF2], [0x8B, 0xF4, 0x89, 0xF2], [2]) := by decide

theorem witness_encCbc_block : BlockReady (.encCbc 0 .pkcs7) encCbcState ∧ encCbcState.nextIndex .enc .cbc = 1 ∧
    encCbcState.cipherEnc (xor (encCbcState.pBlk 1) encCbcState.fb) = some [0x8B, 0xF4, 0x89, 0xF2] := by unfold BlockReady; decide

def encPcbcState : State := encMid 0x1021 (answers [0x58, 0x95, 0x26, 0xEF] [0x9A, 0xD6, 0xBA, 0xF2]) noAnswers [0x1C, 0xC0, 0x40, 0x98]
/-- V5.3, block 1. -/
theorem test_encPcbc_block : seenAfter 4 (exec (.encPcbc 0 .pkcs7) encPcbcState) = some ([0x9A, 0xD6, 0xBA, 0xF2], [0xDE, 0x83, 0xDC, 0x85], [2]) := by decide

theorem witness_encPcbc_block : BlockReady (.encPcbc 0 .pkcs7) encPcbcState ∧ encPcbcState.nextIndex .enc .pcbc = 1 ∧
    encPcbcState.cipherEnc (xor (encPcbcState.pBlk 1) encPcbcState.fb) = some [0x9A, 0xD6, 0xBA, 0xF2] := by unfold BlockReady; decide

def encCfbState : State := encMid 0x1031 (answers [0x0D, 0xE2, 0x73, 0x98] [0xED, 0x83, 0xCD, 0xA7]) noAnswers [0x0D, 0xE2, 0x73, 0x98]
/-- V6.1, block 1. -/
theorem test_encCfb_block : seenAfter 4 (exec (.encCfb 0 .pkcs7) encCfbState) = some ([0xA9, 0xD6, 0xAB, 0xD0], [0xA9, 0xD6, 0xAB, 0xD0], [2]) := by decide

theorem witness_encCfb_block : BlockReady (.encCfb 0 .pkcs7) encCfbState ∧ encCfbState.nextIndex .enc .cfb = 1 ∧
    encCfbState.cipherEnc encCfbState.fb = some [0xED, 0x83, 0xCD, 0xA7] := by unfold BlockReady; decide

def encOfbState : State := encMid 0x1041 (answers [0x0D, 0xF3, 0x51, 0xAB] [0xFC, 0xA1, 0xFE, 0xA7]) noAnswers [0x0D, 0xF3, 0x51, 0xAB]
/-- V6.2, block 1. -/
theorem test_encOfb_block : seenAfter 4 (exec (.encOfb 0 .pkcs7) encOfbState) = some ([0xB8, 0xF4, 0x98, 0xD0], [0xFC, 0xA1, 0xFE, 0xA7], [2]) := by decide

theorem witness_encOfb_block : BlockReady (.encOfb 0 .pkcs7) encOfbState ∧ encOfbState.nextIndex .enc .ofb = 1 ∧
    encOfbState.cipherEnc encOfbState.fb = some [0xFC, 0xA1, 0xFE, 0xA7] := by unfold BlockReady; decide

def encCtrState : State := encMid 0x1051 (answers [0x01, 0x02, 0x03, 0x05] [0x0D, 0xF3, 0x50, 0xAB]) noAnswers [0x00, 0x00, 0x00, 0x00]
/-- V6.3, block 1. -/
theorem test_encCtr_block : seenAfter 4 (exec (.encCtr 0 .pkcs7) encCtrState) = some ([0x49, 0xA6, 0x36, 0xDC], [0x00, 0x00, 0x00, 0x00], [2]) := by decide

theorem witness_encCtr_block : BlockReady (.encCtr 0 .pkcs7) encCtrState ∧ encCtrState.nextIndex .enc .ctr = 1 ∧
    encCtrState.cipherEnc (encCtrState.ctr 1) = some [0x0D, 0xF3, 0x50, 0xAB] := by unfold BlockReady; decide

def encRdState : State := encMid 0x1061 (answers [0x49, 0xF6, 0x17, 0xA8] [0xF9, 0xE7, 0xFD, 0xE3]) noAnswers [0x0D, 0xA3, 0x71, 0xDF]
/-- V7.1, block 1. -/
theorem test_encRd_block : seenAfter 8 (exec (.encRd 0 .pkcs7) encRdState) = some ([0xF9, 0xE7, 0xFD, 0xE3], [0xF4, 0x44, 0x8C, 0x3C], [2]) := by decide

theorem witness_encRd_block : BlockReady (.encRd 0 .pkcs7) encRdState ∧ encRdState.nextIndex .enc .rd = 1 ∧
    encRdState.cipherEnc (xor (encRdState.pBlk 1) encRdState.fb) = some [0xF9, 0xE7, 0xFD, 0xE3] := by unfold BlockReady; decide

def decEcbState : State := decMid 0x2001 noAnswers (answers [0x5A, 0x96, 0x22, 0xEE] [0x44, 0x55, 0x66, 0x77]) [0x1E, 0xD2, 0x66, 0xAA, 0x5A, 0x96, 0x22, 0xEE, 0x0B, 0xF4, 0x51, 0xAE] [0x00, 0x00, 0x00, 0x00]
/-- V5.1 and its DEC row: block 1. -/
theorem test_decEcb_block : seenAfter 4 (exec (.decEcb 0 .pkcs7) decEcbState) = some ([0x44, 0x55, 0x66, 0x77], [0x00, 0x00, 0x00, 0x00], [2]) := by decide

theorem witness_decEcb_block : BlockReady (.decEcb 0 .pkcs7) decEcbState ∧ decEcbState.nextIndex .dec .ecb = 1 ∧
    decEcbState.cipherDec (decEcbState.cBlk .ecb 1) = some [0x44, 0x55, 0x66, 0x77] := by unfold BlockReady; decide

def decCbcState : State := decMid 0x2011 noAnswers (answers [0x8B, 0xF4, 0x89, 0xF2] [0x58, 0x84, 0x04, 0xDC]) [0x1C, 0xD1, 0x62, 0xAB, 0x8B, 0xF4, 0x89, 0xF2, 0xFF, 0x7D, 0xA3, 0x25] [0x00, 0x00, 0x00, 0x00]
/-- V5.2 and its DEC row: block 1. -/
theorem test_decCbc_block : seenAfter 4 (exec (.decCbc 0 .pkcs7) decCbcState) = some ([0x58, 0x84, 0x04, 0xDC], [0x00, 0x00, 0x00, 0x00], [2]) := by decide

theorem witness_decCbc_block : BlockReady (.decCbc 0 .pkcs7) decCbcState ∧ decCbcState.nextIndex .dec .cbc = 1 ∧
    decCbcState.cipherDec (decCbcState.cBlk .cbc 1) = some [0x58, 0x84, 0x04, 0xDC] := by unfold BlockReady; decide

def decPcbcState : State := decMid 0x2021 noAnswers (answers [0x9A, 0xD6, 0xBA, 0xF2] [0x58, 0x95, 0x26, 0xEF]) [0x1C, 0xD1, 0x62, 0xAB, 0x9A, 0xD6, 0xBA, 0xF2, 0x88, 0x28, 0xD4, 0x70] [0x1C, 0xC0, 0x40, 0x98]
/-- V5.3 and its DEC row: block 1. -/
theorem test_decPcbc_block : seenAfter 4 (exec (.decPcbc 0 .pkcs7) decPcbcState) = some ([0x44, 0x55, 0x66, 0x77], [0xDE, 0x83, 0xDC, 0x85], [2]) := by decide

theorem witness_decPcbc_block : BlockReady (.decPcbc 0 .pkcs7) decPcbcState ∧ decPcbcState.nextIndex .dec .pcbc = 1 ∧
    decPcbcState.cipherDec (decPcbcState.cBlk .pcbc 1) = some [0x58, 0x95, 0x26, 0xEF] := by unfold BlockReady; decide

def decCfbState : State := decMid 0x2031 (answers [0x0D, 0xE2, 0x73, 0x98] [0xED, 0x83, 0xCD, 0xA7]) noAnswers [0x0D, 0xE2, 0x73, 0x98, 0xA9, 0xD6, 0xAB, 0xD0, 0xDD, 0x5F, 0x81, 0x07] [0x0D, 0xE2, 0x73, 0x98]
/-- V6.1 and its DEC row: block 1. -/
theorem test_decCfb_block : seenAfter 4 (exec (.decCfb 0 .pkcs7) decCfbState) = some ([0x44, 0x55, 0x66, 0x77], [0xA9, 0xD6, 0xAB, 0xD0], [2]) := by decide

theorem witness_decCfb_block : BlockReady (.decCfb 0 .pkcs7) decCfbState ∧ decCfbState.nextIndex .dec .cfb = 1 ∧
    decCfbState.cipherEnc decCfbState.fb = some [0xED, 0x83, 0xCD, 0xA7] := by unfold BlockReady; decide

def decOfbState : State := decMid 0x2041 (answers [0x0D, 0xF3, 0x51, 0xAB] [0xFC, 0xA1, 0xFE, 0xA7]) noAnswers [0x0D, 0xE2, 0x73, 0x98, 0xB8, 0xF4, 0x98, 0xD0, 0xAA, 0x0A, 0xF6, 0x52] [0x0D, 0xF3, 0x51, 0xAB]
/-- V6.2 and its DEC row: block 1. -/
theorem test_decOfb_block : seenAfter 4 (exec (.decOfb 0 .pkcs7) decOfbState) = some ([0x44, 0x55, 0x66, 0x77], [0xFC, 0xA1, 0xFE, 0xA7], [2]) := by decide

theorem witness_decOfb_block : BlockReady (.decOfb 0 .pkcs7) decOfbState ∧ decOfbState.nextIndex .dec .ofb = 1 ∧
    decOfbState.cipherEnc decOfbState.fb = some [0xFC, 0xA1, 0xFE, 0xA7] := by unfold BlockReady; decide

def decCtrState : State := decMid 0x2051 (answers [0x01, 0x02, 0x03, 0x05] [0x0D, 0xF3, 0x50, 0xAB]) noAnswers [0x0D, 0xE2, 0x73, 0x98, 0x49, 0xA6, 0x36, 0xDC, 0x09, 0xF7, 0x57, 0xAF] [0x00, 0x00, 0x00, 0x00]
/-- V6.3 and its DEC row: block 1. -/
theorem test_decCtr_block : seenAfter 4 (exec (.decCtr 0 .pkcs7) decCtrState) = some ([0x44, 0x55, 0x66, 0x77], [0x00, 0x00, 0x00, 0x00], [2]) := by decide

theorem witness_decCtr_block : BlockReady (.decCtr 0 .pkcs7) decCtrState ∧ decCtrState.nextIndex .dec .ctr = 1 ∧
    decCtrState.cipherEnc (decCtrState.ctr 1) = some [0x0D, 0xF3, 0x50, 0xAB] := by unfold BlockReady; decide

def decRdState : State := decMid 0x2061 noAnswers (answers [0xF9, 0xE7, 0xFD, 0xE3] [0x49, 0xF6, 0x17, 0xA8]) [0xA1, 0xB2, 0xC3, 0xD4, 0xAC, 0x11, 0xB2, 0x0B, 0xF9, 0xE7, 0xFD, 0xE3, 0x4F, 0x78, 0x6D, 0x5A] [0x0D, 0xA3, 0x71, 0xDF]
/-- V7.1 and its DEC row: block 1. -/
theorem test_decRd_block : seenAfter 4 (exec (.decRd 0 .pkcs7) decRdState) = some ([0x44, 0x55, 0x66, 0x77], [0xF4, 0x44, 0x8C, 0x3C], [2]) := by decide

theorem witness_decRd_block : BlockReady (.decRd 0 .pkcs7) decRdState ∧ decRdState.nextIndex .dec .rd = 1 ∧
    decRdState.cipherDec (decRdState.cBlk .rd 1) = some [0x49, 0xF6, 0x17, 0xA8] := by unfold BlockReady; decide
/-! ## The other steps -/

/-- V7.1: INIT of ENC.RD draws the seed into FB and OUTBUF[0 .. 4); four bytes drawn. -/
theorem test_encRd_init :
    (nextOf (exec (.encRd 0 .pkcs7)
      { encMid 0x1061 noAnswers noAnswers [] with phase := .init
                                                  free := { State.reset.free with rnd := [0xA1, 0xB2, 0xC3, 0xD4, 0x99] } })).map
      (fun t => (t.fb, t.memRead .outbuf 0 4, t.free.drawn, t.rndAt 0, t.pending))
      = some ([0xA1, 0xB2, 0xC3, 0xD4], [0xA1, 0xB2, 0xC3, 0xD4], 4, 0x99, [0, 1, 2]) := by decide

/-- P4 (b): INIT of DEC.RD takes the seed from INBUF and draws nothing. -/
theorem test_decRd_init :
    (nextOf (exec (.decRd 0 .iso10126) { decMid 0x2063 noAnswers noAnswers [0xA1, 0xB2, 0xC3, 0xD4, 0x10, 0x8D, 0x6E, 0xD5,
      0x32, 0x07, 0x56, 0x1A] [] with phase := .init, nblk := 2 })).map (fun t => (t.fb, t.free.drawn, t.pending))
      = some ([0xA1, 0xB2, 0xC3, 0xD4], 0, [0, 1]) := by decide

/-- INIT of ENC.CBC: FB is the IV (R199, P1). -/
theorem test_encCbc_init :
    (nextOf (exec (.encCbc 0 .pkcs7) { encMid 0x1011 noAnswers noAnswers [] with phase := .init })).map
      (fun t => (t.fb, t.pending, t.phase)) = some ([0x01, 0x02, 0x03, 0x04], [0, 1, 2], .blocks) := by decide

/-- COMBINE of DEC.CBC with the raw blocks of P1 in OUTBUF. -/
def combining (pending : List Nat) : State :=
  { decMid 0x2011 noAnswers noAnswers [0x1C, 0xD1, 0x62, 0xAB, 0x8B, 0xF4, 0x89, 0xF2, 0xFF, 0x7D, 0xA3, 0x25] [] with
    phase := .combine, pending := pending
    outbuf := Memory.write [] 0 [0x01, 0x13, 0x21, 0x37, 0x58, 0x84, 0x04, 0xDC, 0x8F, 0xF0, 0x8D, 0xF6] }

/-- P1, second operation: the combine of blocks 0 and 1 (block 0 with the IV). -/
theorem test_decCbc_combine :
    seenAfter 0 (exec (.decCbc 0 .pkcs7) (combining [0, 1, 2])) = some ([0x00, 0x11, 0x22, 0x33], [], [1, 2]) ∧
    seenAfter 4 (exec (.decCbc 0 .pkcs7) (combining [1, 2])) = some ([0x44, 0x55, 0x66, 0x77], [], [2]) := by decide

/-- PAD of an `n`-byte message, B = 8, the randomness port yielding `rnd`. -/
def padding (n : Nat) (rnd : ByteString) : State :=
  { busyIn 0x1011 .pad (base 8 noAnswers noAnswers) with
    inlen := BitVec.ofNat 32 n, free := { State.reset.free with rnd := rnd } }

/-- PADLEN, TAIL[0 .. PADLEN), NBLK and the number of bytes drawn after a PAD step. -/
def padded (i : Instr) (s : State) : Option (Nat × ByteString × Nat × Nat) :=
  (nextOf (exec i s)).map fun t => (t.padlen, t.tail.take t.padlen, t.nblk, t.free.drawn)

/-- V3.1, V3.2, V3.2b. -/
theorem test_pad_zeros : padded (.encEcb 0 .zeros) (padding 0 []) = some (0, [], 0, 0) ∧
    padded (.encEcb 0 .zeros) (padding 5 []) = some (3, [0, 0, 0], 1, 0) ∧
    padded (.encEcb 0 .zeros) (padding 8 []) = some (0, [], 1, 0) := by decide

/-- V3.4, V3.6, V3.7. -/
theorem test_pad_pkcs7 : padded (.encPcbc 0 .pkcs7) (padding 8 []) = some (8, [8, 8, 8, 8, 8, 8, 8, 8], 2, 0) ∧
    padded (.encPcbc 0 .pkcs7) (padding 7 []) = some (1, [1], 1, 0) ∧
    padded (.encPcbc 0 .pkcs7) (padding 50 []) = some (6, [6, 6, 6, 6, 6, 6], 7, 0) := by decide

/-- V3.9, V3.10, V3.11. -/
theorem test_pad_ansix923 : padded (.encCtr 0 .ansix923) (padding 5 []) = some (3, [0, 0, 3], 1, 0) ∧
    padded (.encCtr 0 .ansix923) (padding 7 []) = some (1, [1], 1, 0) ∧
    padded (.encCtr 0 .ansix923) (padding 16 []) = some (8, [0, 0, 0, 0, 0, 0, 0, 8], 3, 0) := by decide

/-- V3.12, V3.13, V3.14. -/
theorem test_pad_iso10126 : padded (.encOfb 0 .iso10126) (padding 5 [0xAA, 0xBB, 0xCC]) = some (3, [0xAA, 0xBB, 3], 1, 2) ∧
    padded (.encOfb 0 .iso10126) (padding 7 [0xAA]) = some (1, [1], 1, 0) ∧
    padded (.encOfb 0 .iso10126) (padding 8 [0x11, 0x22, 0x33, 0x44, 0x55, 0x66, 0x77, 0x88]) =
      some (8, [0x11, 0x22, 0x33, 0x44, 0x55, 0x66, 0x77, 8], 2, 7) := by decide

/-- UNPAD of the recovered bytes `t`, B = 8. -/
def unpadding (t : ByteString) : State :=
  { busyIn 0x2001 .unpad (base 8 noAnswers noAnswers) with
    inlen := BitVec.ofNat 32 t.length, nblk := t.length / 8, outbuf := Memory.write [] 0 t }

/-- ERR and OUTLEN after a step that ends the operation. -/
def ended (o : Host.Outcome State Fault Refusal) : Option (BitVec 3 × Nat) :=
  (nextOf o).bind fun t => if t.phase = .idle ∧ t.busy = false ∧ t.done = true then some (t.err, t.outlen.toNat) else none

/-- V4.1, V4.2, V4.4, V4.5, V4.8, V4.9. -/
theorem test_unpad_pkcs7 :
    ended (exec (.decEcb 0 .pkcs7) (unpadding [0x41, 0x42, 0x43, 0x44, 0x45, 3, 3, 3])) = some (0, 5) ∧
    ended (exec (.decEcb 0 .pkcs7) (unpadding [8, 8, 8, 8, 8, 8, 8, 8])) = some (0, 0) ∧
    ended (exec (.decEcb 0 .pkcs7) (unpadding [0x41, 0x42, 0x43, 0x44, 0x45, 0x46, 0x47, 0])) = some (4, 0) ∧
    ended (exec (.decEcb 0 .pkcs7) (unpadding [0x41, 0x42, 0x43, 0x44, 0x45, 0x46, 0x47, 9])) = some (4, 0) ∧
    ended (exec (.decEcb 0 .pkcs7) (unpadding [0x41, 0x42, 0x43, 0x44, 0x45, 0x46, 0x47, 8])) = some (0, 0) ∧
    ended (exec (.decEcb 0 .pkcs7) (unpadding [])) = some (4, 0) := by decide

/-- V4.11 and V4.12: fillers are not checked. -/
theorem test_unpad_ansix_iso :
    ended (exec (.decCfb 0 .ansix923) (unpadding [0x41, 0x42, 0x43, 0x44, 0x45, 0xFF, 0xFF, 3])) = some (0, 5) ∧
    ended (exec (.decCtr 0 .iso10126) (unpadding [0x41, 0x42, 0x43, 0x44, 0x45, 0xAA, 0xBB, 3])) = some (0, 5) := by decide

/-- V4.14, V4.15, V4.17, V4.18. -/
theorem test_unpad_zeros :
    ended (exec (.decOfb 0 .zeros) (unpadding [0x41, 0, 0x42, 0, 0, 0, 0, 0])) = some (0, 3) ∧
    ended (exec (.decOfb 0 .zeros) (unpadding [0, 0, 0, 0, 0, 0, 0, 0])) = some (0, 0) ∧
    ended (exec (.decOfb 0 .zeros) (unpadding [])) = some (0, 0) ∧
    ended (exec (.decOfb 0 .zeros)
      (unpadding [0x41, 0x42, 0x43, 0x44, 0x45, 0x46, 0x47, 0x48, 0, 0, 0, 0, 0, 0, 0, 0])) = some (0, 8) := by decide

/-- The CHECK step of a command word with INLEN and IVLEN, B = 8, a cipher attached or not. -/
def checking (bound : Bool) (w : Word) (inlen : BitVec 32) (ivlen : BitVec 9) : State :=
  { (base 8 noAnswers noAnswers).setCipher (if bound then some ⟨8, noAnswers, noAnswers⟩ else none) with
    ctx := w, busy := true, phase := .check, inlen := inlen, ivlen := ivlen }

/-- V8.1 to V8.6, V8.8, V8.15 to V8.17, V7.9: the checks in their order. -/
theorem test_check_errors :
    ended (step (checking false 0x1011 0 0)) = some (1, 0) ∧ ended (step (checking false 0x2011 13 0)) = some (1, 0) ∧
    ended (step (checking true 0x2011 13 0)) = some (2, 0) ∧ ended (step (checking true 0x2011 16 0)) = some (3, 0) ∧
    ended (step (checking true 0x2011 16 4)) = some (3, 0) ∧ ended (step (checking true 0x1011 16 16)) = some (3, 0) ∧
    ended (step (checking true 0x2001 13 0)) = some (2, 0) ∧ ended (step (checking true 0x1071 0 0)) = some (1, 0) ∧
    ended (step (checking true 0x1014 0 0)) = some (1, 0) ∧ ended (step (checking true 0x0011 0 0)) = some (1, 0) ∧
    ended (step (checking true 0x2061 6 8)) = some (2, 0) ∧ ended (step (checking true 0x2061 0 8)) = some (2, 0) := by decide

/-- V8.7, V8.9, V8.11: the checks pass. -/
theorem test_check_passes :
    (nextOf (step (checking true 0x1001 13 0))).map (·.phase) = some .pad ∧
    (nextOf (step (checking true 0x1011 13 8))).map (·.phase) = some .pad ∧
    (nextOf (step (checking true 0x2010 0 8))).map (fun t => (t.phase, t.nblk)) = some (.init, 0) ∧
    (nextOf (step (checking true 0x2061 24 8))).map (fun t => (t.phase, t.nblk)) = some (.init, 2) := by decide

/-- A cipher direction that answers `fail` to `x`. -/
def fails (x : ByteString) : PortFn := { key := 0, known := [(x, none)] }

/-- V8.12: the request for block 0 (IV ^ P[0]) fails. -/
def failing : State :=
  { busyIn 0x1011 .blocks (loaded (base 4 (fails [0x01, 0x13, 0x21, 0x37]) noAnswers) [0x00, 0x11, 0x22, 0x33] vIv) with
    pending := [0, 1], nblk := 2, padlen := 4, tail := [4, 4, 4, 4], fb := vIv }

theorem test_cipher_fails : ended (exec (.encCbc 0 .pkcs7) failing) = some (7, 0) := by decide

/-- V2: STATUS after reset without and with a cipher, during an operation, and after each kind of end. -/
theorem test_status :
    (State.resetOn ⟨none, 64, 0, true⟩).readReg 1 = 0x00 ∧ State.reset.readReg 1 = 0x20 ∧
    (State.reset.accept 0x1011).readReg 1 = 0x21 ∧ (State.reset.finish 8).readReg 1 = 0x22 ∧
    ((State.resetOn ⟨none, 64, 0, true⟩).raise .configuration).readReg 1 = 0x06 ∧
    (State.reset.raise .input).readReg 1 = 0x2A ∧ (State.reset.raise .iv).readReg 1 = 0x2E ∧
    (State.reset.raise .padding).readReg 1 = 0x32 ∧ (State.reset.raise .cipher).readReg 1 = 0x3E := by decide

/-- V6.14 to V6.16, and the second part of V6.17: the counter block, its carries and its wrap. -/
theorem test_counter :
    addbe [0, 0, 0, 0xFF] 1 = [0, 0, 1, 0] ∧ addbe [0, 0xFF, 0xFF, 0xFF] 1 = [1, 0, 0, 0] ∧
    addbe [0xFF, 0xFF, 0xFF, 0xFE] 1 = [0xFF, 0xFF, 0xFF, 0xFF] ∧ addbe [0xFF, 0xFF, 0xFF, 0xFE] 2 = [0, 0, 0, 0] ∧
    addbe [0xFF, 0xFF, 0xFF, 0xFE] 3 = [0, 0, 0, 1] := by decide

/-- R22 and V1: bits 31:16 of a write to CMD are ignored; P6: a write to INLEN while BUSY is dropped. -/
theorem test_host_writes :
    (nextOf (step (withMove (.writeReg 0 0x00011011) State.reset))).map (fun t => (t.ctx, t.busy, t.phase)) =
      some (0x1011, true, .check) ∧
    (nextOf (step (withMove (.writeReg 4 4) (checking true 0x1011 8 8)))).map (·.inlen) = some 8 := by decide

/-- R242: setting a key changes its own direction of the cipher and no other (the model's choice, log 16). -/
theorem test_host_keys :
    (nextOf (step (withMove (.setEncryptionKey (answers [1] [2])) (base 1 noAnswers (answers [3] [4]))))).map
      (fun t => (t.cipherEnc [1], t.cipherDec [3])) = some (some [2], some [4]) ∧
    (nextOf (step (withMove (.setDecryptionKey (answers [1] [2])) (base 1 (answers [3] [4]) noAnswers)))).map
      (fun t => (t.cipherDec [1], t.cipherEnc [3])) = some (some [2], some [4]) := by decide

/-- The host's placement of one instruction: the next step from reset is its CHECK step. -/
theorem test_withFetchWord :
    (nextOf (step (State.reset.withFetchWord 16 0x1001))).map (fun t => (t.ctx, t.phase)) = some (0x1001, .pad) ∧
    ended (step (State.reset.withFetchWord 16 0x2011)) = some (3, 0) := by decide

/-! ## Witnesses: for each statement with hypotheses, values that meet them together, at the ends of their ranges -/

theorem witness_EncodeDecodeInverse : decode 0x2F63 = .ok (.decRd 15 .iso10126) ∧
    decode 0x1000 = .ok (.encEcb 0 .zeros) := by decide

theorem witness_StepRunsDecodedInstruction :
    (encCbcState.busy = true ∧ decode encCbcState.ctx = .ok (.encCbc 0 .pkcs7) ∧ encCbcState.host.todo = []) ∧
    (withMove .engine encCbcState).host.todo.head? = some .engine ∧
    (withMove .wait encCbcState).host.todo.head? = some .wait := by decide

theorem witness_IdleEngineWaits : State.reset.busy = false ∧ State.reset.host.todo = [] ∧
    (withMove .wait State.reset).host.todo = [.wait] := by decide

theorem witness_CommandAcceptance : (withMove (.writeReg 0 0x00011011) State.reset).host.todo = [.writeReg 0 0x00011011] ∧
    (withMove (.writeReg 0 0xFFFFFFFF) State.reset).busy = false ∧
    (withMove (.writeReg 0 0x1001) encCbcState).busy = true := by decide

theorem witness_ExecOnIdleEngineAccepts : State.reset.phase = .idle := by decide

/-- Every clause of CheckStepOutcome: the four configuration conditions, both input conditions, the IV condition in modes 1,
5 and 6, and the two passes. -/
theorem witness_CheckStepOutcome :
    (checking true 0x1011 0 8).host.todo = [] ∧ (checking true 0x1011 0 8).busy = true ∧
    (checking true 0x1011 0 8).phase = .check ∧
    (checking false 0x1011 0 8).cbound = false ∧
    6 < (checking true 0x1071 0 8).ctx.toNat / 16 % 16 ∧ 3 < (checking true 0x1014 0 8).ctx.toNat % 16 ∧
    (checking true 0x0F11 0 8).ctx.toNat / 4096 = 0 ∧ (checking true 0x3011 0 8).ctx.toNat / 4096 = 3 ∧
    ((checking true 0x2001 9 0).cbound = true ∧ (checking true 0x2001 9 0).inlen.toNat % (checking true 0x2001 9 0).blkSz = 1) ∧
    ((checking true 0x2060 0 8).ctx.toNat / 16 % 16 = 6 ∧ (checking true 0x2060 0 8).inlen.toNat < (checking true 0x2060 0 8).blkSz) ∧
    ((checking true 0x1010 0 9).ctx.toNat / 16 % 16 = 1 ∧ (checking true 0x1010 0 9).ivlen.toNat ≠ (checking true 0x1010 0 9).blkSz) ∧
    ((checking true 0x2050 8 7).ctx.toNat / 16 % 16 = 5 ∧ (checking true 0x2050 8 7).ivlen.toNat ≠ (checking true 0x2050 8 7).blkSz) ∧
    ((checking true 0x1060 8 0).ctx.toNat / 16 % 16 = 6 ∧ (checking true 0x1060 8 0).plat.rdNeedsIv = true) ∧
    ((checking true 0x1063 0 8).ctx.toNat / 4096 = 1 ∧ (checking true 0x1063 0 8).ivlen.toNat = (checking true 0x1063 0 8).blkSz) ∧
    ((checking true 0x2063 8 8).ctx.toNat / 4096 = 2 ∧ (checking true 0x2063 8 8).inlen.toNat % (checking true 0x2063 8 8).blkSz = 0 ∧
      (checking true 0x2063 8 8).ivlen.toNat = (checking true 0x2063 8 8).blkSz) := by decide

/-- The error ends of the CHECK step, of a failed cipher request and of the validator. -/
theorem witness_ErrorEndEffect :
    ((checking false 0x1011 0 0).host.todo = [] ∧ (checking false 0x1011 0 0).busy = true ∧
      (checking false 0x1011 0 0).phase ≠ .idle ∧ ended (step (checking false 0x1011 0 0)) = some (1, 0)) ∧
    ended (step (checking true 0x1071 0 0)) = some (1, 0) ∧
    ended (step (checking true 0x2011 13 0)) = some (2, 0) ∧
    ended (step (checking true 0x2011 16 0)) = some (3, 0) ∧
    (failing.host.todo = [] ∧ failing.phase ≠ .idle ∧ ended (step failing) = some (7, 0)) ∧
    ((unpadding []).phase ≠ .idle ∧ (unpadding []).host.todo = [] ∧
      ended (step { unpadding [] with ctx := 0x2001 }) = some (4, 0)) := by decide

/-- PAD of an `n`-byte message at any block size. -/
def paddingAt (b n : Nat) : State :=
  { busyIn 0x1011 .pad (base b noAnswers noAnswers) with inlen := BitVec.ofNat 32 n }

/-- The smallest and the largest block size; for Zeros an aligned and an unaligned message. -/
theorem witness_PadSteps :
    ((paddingAt 1 0).phase = .pad ∧ 1 ≤ (paddingAt 1 0).blkSz ∧ (paddingAt 1 0).blkSz ≤ 255) ∧
    ((paddingAt 255 254).phase = .pad ∧ 1 ≤ (paddingAt 255 254).blkSz ∧ (paddingAt 255 254).blkSz ≤ 255) ∧
    (Instr.encRd 0 .zeros).dir = .enc ∧ (Instr.encRd 0 .zeros).pad = .zeros ∧ (Instr.encCbc 0 .pkcs7).pad = .pkcs7 ∧
    (Instr.encCfb 0 .ansix923).pad = .ansix923 ∧ (Instr.encEcb 0 .iso10126).pad = .iso10126 := by decide

/-- INIT of a command in a state whose operands exist, NBLK = 0 and NBLK = 3; each feedback clause. -/
theorem witness_InitStepLoadsFeedback :
    ({ encPcbcState with phase := .init }.spacesHold .enc .pcbc = true ∧ { encPcbcState with phase := .init }.phase = .init) ∧
    ({ decMid 0x2051 noAnswers noAnswers [] [] with phase := .init, nblk := 0 }.spacesHold .dec .ctr = true) ∧
    ({ decCbcState with phase := .init }.spacesHold .dec .cbc = true) ∧
    ({ encCbcState with phase := .init }.spacesHold .enc .cbc = true) := by decide

theorem witness_InitStepDrawsSeed : { encRdState with phase := .init }.phase = .init ∧
    { encRdState with phase := .init }.spacesHold .enc .rd = true := by decide

theorem witness_InitStepReadsSeed : { decRdState with phase := .init }.phase = .init ∧
    { decRdState with phase := .init }.spacesHold .dec .rd = true := by decide

/-- Each clause of DecCbcCombineStep: none pending, the least index 0, the least index 1. -/
theorem witness_DecCbcCombineStep :
    (combining []).phase = .combine ∧ (combining []).blockHolds .dec .cbc = true ∧ (combining []).pending = [] ∧
    ((combining [0, 1, 2]).blockHolds .dec .cbc = true ∧ 0 ∈ (combining [0, 1, 2]).pending) ∧
    ((combining [1, 2]).blockHolds .dec .cbc = true ∧ 1 ∈ (combining [1, 2]).pending ∧
      ∀ j ∈ (combining [1, 2]).pending, 1 ≤ j) := by decide

/-- The same cipher, every known answer replaced by `fail`. -/
def allFail (s : State) : State :=
  s.setCipher (s.plat.cipher.map fun c => { c with
    enc := { c.enc with known := c.enc.known.map fun p => (p.1, none) }
    dec := { c.dec with known := c.dec.known.map fun p => (p.1, none) } })

/-- The failing clause of a block statement is met. -/
abbrev failsAt (i : Instr) (s : State) : Prop :=
  (allFail s).phase = .blocks ∧ (allFail s).pending ≠ [] ∧ (allFail s).blockHolds i.dir i.mode = true ∧
    blockRequest i ((allFail s).nextIndex i.dir i.mode) (allFail s) = none

/-- The clause of each block statement in which the cipher request fails. -/
theorem witness_blockSteps_fail :
    failsAt (.encEcb 0 .pkcs7) encEcbState ∧
    failsAt (.encCbc 0 .pkcs7) encCbcState ∧
    failsAt (.encPcbc 0 .pkcs7) encPcbcState ∧
    failsAt (.encCfb 0 .pkcs7) encCfbState ∧
    failsAt (.encOfb 0 .pkcs7) encOfbState ∧
    failsAt (.encCtr 0 .pkcs7) encCtrState ∧
    failsAt (.encRd 0 .pkcs7) encRdState ∧
    failsAt (.decEcb 0 .pkcs7) decEcbState ∧
    failsAt (.decCbc 0 .pkcs7) decCbcState ∧
    failsAt (.decPcbc 0 .pkcs7) decPcbcState ∧
    failsAt (.decCfb 0 .pkcs7) decCfbState ∧
    failsAt (.decOfb 0 .pkcs7) decOfbState ∧
    failsAt (.decCtr 0 .pkcs7) decCtrState ∧
    failsAt (.decRd 0 .pkcs7) decRdState := by decide

/-- With and without a seed, and a DEC command of either kind. -/
theorem witness_ClosingSteps :
    ({ encRdState with pending := [] }.phase = .blocks ∧ { encRdState with pending := [] }.blockHolds .enc .rd = true ∧
      encRdState.plat.wellFormed = true) ∧
    { encEcbState with pending := [] }.blockHolds .enc .ecb = true ∧
    ({ decCbcState with pending := [] }.phase = .blocks ∧ { decCbcState with pending := [] }.blockHolds .dec .cbc = true) ∧
    { decRdState with pending := [] }.blockHolds .dec .rd = true := by decide

/-- UNPAD with an empty content, and with the counts 0, 1, B and B + 1. -/
theorem witness_UnpadSteps :
    ((unpadding []).phase = .unpad ∧ (unpadding []).spacesHold .dec .ecb = true ∧
      (unpadding []).plat.wellFormed = true ∧ (unpadding []).nblk * (unpadding []).blkSz = 0) ∧
    ∀ p ∈ ([0, 1, 8, 9] : ByteString),
      (unpadding [0, 0, 0, 0, 0, 0, 0, p]).spacesHold .dec .ecb = true ∧
      (unpadding [0, 0, 0, 0, 0, 0, 0, p]).byteAt .outbuf 7 = p := by decide

/-- A message of one byte padded by PKCS7 at B = 2, and the DEC operation that recovers it. -/
def padOne : State :=
  { busyIn 0x1001 .pad (base 2 noAnswers noAnswers) with inbuf := [(0, 0x41)], inlen := 1 }

def unpadOne : State :=
  { busyIn 0x2001 .unpad (base 2 noAnswers noAnswers) with nblk := 1, inlen := 2, outbuf := [(0, 0x41), (1, 1)] }

theorem witness_CountedPaddingRoundTrip :
    padOne.phase = .pad ∧ exec (.encEcb 0 .pkcs7) padOne = .next ((nextOf (exec (.encEcb 0 .pkcs7) padOne)).getD padOne) ∧
    unpadOne.phase = .unpad ∧ unpadOne.spacesHold .dec .ecb = true ∧ unpadOne.plat.wellFormed = true ∧
    unpadOne.plat = padOne.plat ∧ padOne.cbound = true ∧
    unpadOne.nblk = ((nextOf (exec (.encEcb 0 .pkcs7) padOne)).getD padOne).nblk ∧
    ∀ a, a < 2 → unpadOne.byteAt .outbuf a = ((nextOf (exec (.encEcb 0 .pkcs7) padOne)).getD padOne).padded a := by
  refine ⟨by decide, rfl, by decide, by decide, by decide, by decide, by decide, by decide, by decide⟩

/-- Messages of one byte under Zeros at B = 2: 41, which comes back, and 00, which is stripped. -/
def unpadZero (b : Byte) : State :=
  { busyIn 0x2000 .unpad (base 2 noAnswers noAnswers) with nblk := 1, inlen := 2, outbuf := [(0, b), (1, 0)] }

theorem witness_ZerosPaddingRoundTrip : ∀ b ∈ ([0x41, 0x00] : ByteString),
    { padOne with inbuf := [(0, b)] }.phase = .pad ∧
    (nextOf (exec (.encEcb 0 .zeros) { padOne with inbuf := [(0, b)] })).isSome = true ∧
    (unpadZero b).phase = .unpad ∧ (unpadZero b).spacesHold .dec .ecb = true ∧ (unpadZero b).plat.wellFormed = true ∧
    (unpadZero b).plat = padOne.plat ∧
    (unpadZero b).nblk = ((nextOf (exec (.encEcb 0 .zeros) { padOne with inbuf := [(0, b)] })).getD padOne).nblk ∧
    ∀ a, a < 2 → (unpadZero b).byteAt .outbuf a =
      ((nextOf (exec (.encEcb 0 .zeros) { padOne with inbuf := [(0, b)] })).getD padOne).padded a := by decide

/-- PhaseTransitionsComplete, EngineKeepsItsInputs, EngineStoreFrame: a step that completes, and a byte it does not store. -/
theorem witness_EngineFrames :
    exec (.encEcb 0 .pkcs7) encEcbState = .next ((nextOf (exec (.encEcb 0 .pkcs7) encEcbState)).getD State.reset) ∧
    encEcbState.phase ≠ .idle ∧ ((nextOf (exec (.encEcb 0 .pkcs7) encEcbState)).getD State.reset).phase ≠ .idle ∧
    ¬ storesAt (.encEcb 0 .pkcs7) encEcbState 3 ∧ ¬ storesAt (.encEcb 0 .pkcs7) encEcbState 8 ∧
    storesAt (.encEcb 0 .pkcs7) encEcbState 4 ∧ storesAt (.encEcb 0 .pkcs7) encEcbState 7 := by
  refine ⟨next_of_isSome (by decide), by decide, by decide, ?_⟩
  simp only [storesAt, show encEcbState.phase = .blocks from rfl]
  decide

theorem witness_OptionsIgnored : (Instr.encCbc 0 .pkcs7).dir = (Instr.encCbc 15 .pkcs7).dir ∧
    (Instr.encCbc 0 .pkcs7).mode = (Instr.encCbc 15 .pkcs7).mode ∧ (Instr.encCbc 0 .pkcs7).pad = (Instr.encCbc 15 .pkcs7).pad ∧
    encCbcState.phase ≠ .idle := by decide

theorem witness_HostReadsRegister : ∀ n : Fin 8, (withMove (.readReg n) State.reset).host.todo = [.readReg n] ∧
    (withMove (.readReg n) State.reset).plat.wellFormed = true := by decide

/-- INLEN at CAP and past it, IVLEN at IVCAP and past it, and a busy engine. -/
theorem witness_HostWritesRegister :
    (withMove (.writeReg 4 65536) State.reset).host.todo = [.writeReg 4 65536] ∧ State.reset.busy = false ∧
    (65536 : BitVec 32).toNat ≤ State.reset.plat.cap ∧ ¬ ((65537 : BitVec 32).toNat ≤ State.reset.plat.cap) ∧
    (256 : BitVec 32).toNat ≤ 256 ∧ ¬ ((257 : BitVec 32).toNat ≤ 256) ∧ encCbcState.busy = true ∧
    (withMove (.writeReg 6 256) State.reset).host.todo = [.writeReg 6 256] ∧
    (withMove (.writeReg 7 1) State.reset).host.todo = [.writeReg 7 1] := by decide

/-- The last address of each space and the first past it. -/
theorem witness_HostWritesByte :
    (withMove (.writeByte .inbuf 65535 1) State.reset).host.todo = [.writeByte .inbuf 65535 1] ∧ State.reset.busy = false ∧
    65535 < State.reset.plat.cap ∧ ¬ (65536 < State.reset.plat.cap) ∧
    (withMove (.writeByte .ivmem 255 1) State.reset).host.todo = [.writeByte .ivmem 255 1] ∧
    (withMove (.writeByte .outbuf 0 1) State.reset).host.todo = [.writeByte .outbuf 0 1] ∧ encCbcState.busy = true := by decide

theorem witness_HostReadsByte :
    (withMove (.readByte .inbuf 65535) State.reset).host.todo = [.readByte .inbuf 65535] ∧ 65535 < State.reset.plat.cap ∧
    (withMove (.readByte .ivmem 255) State.reset).host.todo = [.readByte .ivmem 255] ∧
    ((withMove (.readByte .outbuf 7) (State.reset.finish 8)).host.todo = [.readByte .outbuf 7] ∧
      (State.reset.finish 8).done = true ∧ (State.reset.finish 8).err = 0 ∧ 7 < (State.reset.finish 8).outlen.toNat) := by decide

/-- Each move, on an idle and on a busy engine, with a block size inside and outside its range. -/
theorem witness_CipherChangesOutsideOperations :
    (withMove (.attach none) State.reset).host.todo = [.attach none] ∧
    (withMove (.setEncryptionKey noAnswers) State.reset).host.todo = [.setEncryptionKey noAnswers] ∧
    (withMove (.setDecryptionKey noAnswers) State.reset).host.todo = [.setDecryptionKey noAnswers] ∧
    State.reset.busy = false ∧ encCbcState.busy = true ∧
    (some (Cipher.mk 255 noAnswers noAnswers)).all Cipher.wellFormed = true ∧
    (some (Cipher.mk 256 noAnswers noAnswers)).all Cipher.wellFormed = false ∧
    HostMove.setEncryptionKey noAnswers ≠ .attach none ∧
    State.reset.plat.cipher = some ⟨8, ⟨0, []⟩, ⟨1, []⟩⟩ := by decide

/-- Both clauses of HostMayRelyOnHandshake: a busy and an idle engine, each with a move of the host pending. -/
theorem witness_HostMayRelyOnHandshake :
    ((nextOf (step (withMove (.writeReg 4 4) encCbcState))).isSome = true ∧ encCbcState.busy = true ∧
      (withMove (.writeReg 4 4) encCbcState).host.todo.head? ≠ some .reset) ∧
    ((nextOf (step (withMove (.writeByte .inbuf 0 1) (State.reset.finish 8)))).isSome = true ∧
      (State.reset.finish 8).busy = false ∧
      (withMove (.writeByte .inbuf 0 1) (State.reset.finish 8)).host.todo.head? ≠ some .reset ∧
      (withMove (.writeByte .inbuf 0 1) (State.reset.finish 8)).host.todo.head? ≠ some (.writeReg 0 0)) := by decide

theorem witness_ResetStep : (withMove .reset encCbcState).host.todo = [.reset] := by decide

theorem witness_ResetMeetsInvariant : Config.resetPlatform.wellFormed = true ∧
    (Platform.mk none 1 1 false).wellFormed = true := by decide

/-! ### States of the invariant -/

/-- A state of the CHECK phase whose fields are in range is one of the invariant. -/
theorem inv_of_check {s : State} (hp : s.phase = .check) (h : (s.plat.wellFormed && Memory.wf s.cap s.inbuf &&
    Memory.wf s.outCap s.outbuf && Memory.wf ivCap s.ivmem && decide (s.inlen.toNat ≤ s.cap) && decide (s.outlen = 0) &&
    decide (s.ivlen.toNat ≤ ivCap) && s.busy && !s.done && decide (s.err = 0) && decide (s.pending = [])) = true) :
    s.Inv := by
  simp only [Bool.and_eq_true, decide_eq_true_eq, Bool.not_eq_true'] at h
  obtain ⟨⟨⟨⟨⟨⟨⟨⟨⟨⟨h1, h2⟩, h3⟩, h4⟩, h5⟩, h6⟩, h7⟩, h8⟩, h9⟩, h10⟩, h11⟩ := h
  constructor
  case operation => exact fun _ h => absurd hp h
  all_goals simp [*]

/-- A cipher of block size 1 with every answer known: E(x) = x + 1, D its inverse. -/
def plusOne : PortFn := { key := 0, known := (List.range 256).map fun n => ([BitVec.ofNat 8 n], some [BitVec.ofNat 8 n + 1]) }
def minusOne : PortFn := { key := 1, known := (List.range 256).map fun n => ([BitVec.ofNat 8 n], some [BitVec.ofNat 8 n - 1]) }

theorem lookup_known (f : Byte → Byte) (x : Byte) (l : List Nat) (h : x.toNat ∈ l) (hl : ∀ n ∈ l, n < 256) :
    (l.map fun n => (([BitVec.ofNat 8 n] : ByteString), some [f (BitVec.ofNat 8 n)])).lookup [x] = some (some [f x]) := by
  induction l with
  | nil => simp at h
  | cons n l ih =>
    by_cases hx : x = BitVec.ofNat 8 n
    · subst hx; simp
    · have hn : x.toNat ≠ n := fun e => hx (by rw [← e]; simp)
      have hb : (([x] : ByteString) == [BitVec.ofNat 8 n]) = false := by simpa using hx
      simp only [List.map_cons, List.lookup, hb]
      exact ih (by rcases List.mem_cons.1 h with h | h; exact absurd h hn; exact h) fun k hk => hl k (List.mem_cons_of_mem _ hk)

theorem portAnswer_plusOne (x : Byte) : portAnswer 1 plusOne [x] = some [x + 1] := by
  have := lookup_known (· + 1) x (List.range 256) (by simp; exact x.isLt) (by simp)
  simp only [portAnswer, knownOrFree, plusOne]
  rw [this]
  rfl

theorem portAnswer_minusOne (x : Byte) : portAnswer 1 minusOne [x] = some [x - 1] := by
  have := lookup_known (· - 1) x (List.range 256) (by simp; exact x.isLt) (by simp)
  simp only [portAnswer, knownOrFree, minusOne]
  rw [this]
  rfl

/-- ENC.CBC of the one byte 41 under PKCS7, IV = 05, B = 1: the padded plaintext is 41 01. -/
def startEnc : State := (loaded (base 1 plusOne minusOne) [0x41] [0x05]).accept 0x1011

/-- DEC.CBC of its ciphertext: E(41 ^ 05) = 45, E(01 ^ 45) = 45. -/
def startDec : State := (loaded (base 1 plusOne minusOne) [0x45, 0x45] [0x05]).accept 0x2011

/-- DEC.CFB of the two bytes 45 45, whose count byte is 45 ^ E(45) = 03 > B: it ends in PaddingError. -/
def startCfb : State := (loaded (base 1 plusOne minusOne) [0x45, 0x45] [0x05]).accept 0x2031

theorem startEnc_atStart : AtStart (.encCbc 0 .pkcs7) startEnc :=
  ⟨inv_of_check rfl (by decide), rfl, by decide, rfl⟩

theorem startDec_atStart : AtStart (.decCbc 0 .pkcs7) startDec :=
  ⟨inv_of_check rfl (by decide), rfl, by decide, rfl⟩

theorem startCfb_atStart : AtStart (.decCfb 0 .pkcs7) startCfb :=
  ⟨inv_of_check rfl (by decide), rfl, by decide, rfl⟩

theorem witness_StepKeepsInvariant : startEnc.Inv ∧ step startEnc = .next ((nextOf (step startEnc)).getD State.reset) :=
  ⟨startEnc_atStart.inv, next_of_isSome (by decide)⟩

/-- The invariant holds in the middle of BLOCKS too. -/
theorem witness_InvariantInBlocks : encPcbcState.Inv := by
  constructor
  case operation =>
    intro _ _
    refine ⟨.encPcbc 0 .pkcs7, by decide, ?_⟩
    constructor <;> decide
  all_goals decide

/-- With no host move pending, and with the host's WAIT. -/
theorem witness_EveryOperationEnds : (startEnc.Inv ∧ startEnc.busy = true ∧ startEnc.host.todo = []) ∧
    ((withMove .wait startEnc).Inv ∧ (withMove .wait startEnc).busy = true ∧
      (withMove .wait startEnc).host.todo = [.wait]) :=
  ⟨⟨startEnc_atStart.inv, rfl, rfl⟩, inv_of_check rfl (by decide), rfl, rfl⟩

theorem startEnc_cipherEnc (x : ByteString) (h : x.length = startEnc.blkSz) :
    startEnc.cipherEnc x = some (x.map (· + 1)) := by
  obtain ⟨b, rfl⟩ : ∃ b, x = [b] := List.length_eq_one_iff.1 h
  exact portAnswer_plusOne b

theorem startDec_cipherDec (x : ByteString) (h : x.length = startDec.blkSz) :
    startDec.cipherDec x = some (x.map (· - 1)) := by
  obtain ⟨b, rfl⟩ : ∃ b, x = [b] := List.length_eq_one_iff.1 h
  exact portAnswer_minusOne b

theorem witness_EncOperationClosedForm : AtStart (.encCbc 0 .pkcs7) startEnc ∧ ChecksPass (.encCbc 0 .pkcs7) startEnc ∧
    ∀ x, x.length = startEnc.blkSz → startEnc.cipherEnc x = some (x.map (· + 1)) :=
  ⟨startEnc_atStart, by unfold ChecksPass; decide, startEnc_cipherEnc⟩

theorem witness_DecOperationClosedForm :
    (AtStart (.decCbc 0 .pkcs7) startDec ∧ ChecksPass (.decCbc 0 .pkcs7) startDec ∧
      ∀ x, x.length = startDec.blkSz → startDec.cipherDec x = some (x.map (· - 1))) ∧
    (AtStart (.decCfb 0 .pkcs7) startCfb ∧ ChecksPass (.decCfb 0 .pkcs7) startCfb ∧
      ∀ x, x.length = startCfb.blkSz → startCfb.cipherEnc x = some (x.map (· + 1))) :=
  ⟨⟨startDec_atStart, by unfold ChecksPass; decide, startDec_cipherDec⟩,
    startCfb_atStart, by unfold ChecksPass; decide, startEnc_cipherEnc⟩

/-- The operation of `startDec` with other values in FB, TAIL, NBLK, OUTBUF and INBUF past INLEN, and other choices. -/
def startDecOther : State :=
  { startDec with
    fb := [9], tail := [7], nblk := 5, pending := [], outbuf := [(0, 0xEE)], inbuf := Memory.set startDec.inbuf 2 0xDD
    free := { startDec.free with picks := [1, 0], picked := 3 } }

theorem witness_OutcomeDependsOnInputsAlone : AtStart (.decCbc 0 .pkcs7) startDec ∧
    AtStart (.decCbc 0 .pkcs7) startDecOther ∧ startDecOther.plat = startDec.plat ∧ startDecOther.inlen = startDec.inlen ∧
    (∀ a, a < startDec.inlen.toNat → startDecOther.byteAt .inbuf a = startDec.byteAt .inbuf a) ∧
    startDecOther.ivlen = startDec.ivlen ∧
    (∀ a, a < startDec.ivlen.toNat → startDecOther.byteAt .ivmem a = startDec.byteAt .ivmem a) ∧
    ∀ k, startDecOther.rndAt k = startDec.rndAt k :=
  ⟨startDec_atStart, ⟨inv_of_check rfl (by decide), rfl, by decide, rfl⟩, rfl, rfl, by decide, rfl, by decide, fun _ => rfl⟩

/-- The end of the operation of `startEnc`: CHECK, PAD, INIT, two blocks and the closing step. -/
def endEnc : State := (nextOf (Host.Core.run core 6 startEnc)).getD State.reset

theorem witness_EncryptThenDecrypt :
    (Instr.encCbc 0 .pkcs7).dir = .enc ∧ (Instr.decCbc 0 .pkcs7).dir = .dec ∧
    (Instr.decCbc 0 .pkcs7).mode = (Instr.encCbc 0 .pkcs7).mode ∧ (Instr.decCbc 0 .pkcs7).pad = (Instr.encCbc 0 .pkcs7).pad ∧
    (Instr.encCbc 0 .pkcs7).pad ≠ .zeros ∧
    AtStart (.encCbc 0 .pkcs7) startEnc ∧ ChecksPass (.encCbc 0 .pkcs7) startEnc ∧
    (∀ x, x.length = startEnc.blkSz → startEnc.cipherEnc x = some (x.map (· + 1))) ∧
    (∀ x, x.length = startEnc.blkSz → startEnc.cipherDec (x.map (· + 1)) = some x) ∧
    runs 6 startEnc endEnc ∧ endEnc.phase = .idle ∧ AtStart (.decCbc 0 .pkcs7) startDec ∧
    startDec.plat = startEnc.plat ∧ startDec.ivlen = startEnc.ivlen ∧
    (∀ a, a < startEnc.blkSz → startDec.byteAt .ivmem a = startEnc.byteAt .ivmem a) ∧
    startDec.inlen = endEnc.outlen ∧
    (∀ a, a < endEnc.outlen.toNat → startDec.byteAt .inbuf a = endEnc.byteAt .outbuf a) := by
  refine ⟨by decide, by decide, by decide, by decide, by decide, startEnc_atStart, by unfold ChecksPass; decide,
    startEnc_cipherEnc, fun x h => ?_, next_of_isSome (by decide), by decide, startDec_atStart, rfl, rfl, by decide,
    by decide, by decide⟩
  obtain ⟨b, rfl⟩ : ∃ b, x = [b] := List.length_eq_one_iff.1 h
  exact (portAnswer_minusOne (b + 1)).trans (by simp)

/-- V5.8: byte 1 of ciphertext block 0 changed from D1 to 51, before the combine of block 1. -/
def combiningChanged : State :=
  { combining [1, 2] with inbuf := Memory.set (combining [1, 2]).inbuf 1 0x51 }

theorem witness_CbcErrorMovesToNextBlock :
    (combining [1, 2]).phase = .combine ∧ combiningChanged.phase = .combine ∧
    (combining [1, 2]).blockHolds .dec .cbc = true ∧ combiningChanged.blockHolds .dec .cbc = true ∧
    (combining [1, 2]).plat = combiningChanged.plat ∧ (combining [1, 2]).pending.min? = some 1 ∧
    combiningChanged.pending.min? = some 1 ∧ ([0x00, 0x80, 0x00, 0x00] : ByteString).length = (combining [1, 2]).blkSz ∧
    combiningChanged.cBlk .cbc 0 = xor ((combining [1, 2]).cBlk .cbc 0) [0x00, 0x80, 0x00, 0x00] ∧
    combiningChanged.getBlk 1 = (combining [1, 2]).getBlk 1 := by decide

/-- V5.8: byte 1 of plaintext block 1 has bit 7 flipped. -/
theorem test_decCbc_changed :
    seenAfter 4 (exec (.decCbc 0 .pkcs7) combiningChanged) = some ([0x44, 0xD5, 0x66, 0x77], [], [2]) := by decide

end Sys2Proof.Tests
end

section
/-!
PROOFS. The state family: what an engine step leaves unchanged, and the invariant at reset and along every step.
-/

namespace Sys2Proof.Machine

/-! ## What an engine step leaves unchanged (R24, R26, R28, R39) -/

/-- The inputs of an operation are in `t` as they are in `s`: the command word, the message, the IV and their lengths, the
parameters, the host, and the contents of unwritten memory. -/
structure KeepsInputs (s t : State) : Prop where
  ctx : t.ctx = s.ctx
  inlen : t.inlen = s.inlen
  ivlen : t.ivlen = s.ivlen
  plat : t.plat = s.plat
  host : t.host = s.host
  inbuf : t.inbuf = s.inbuf
  ivmem : t.ivmem = s.ivmem
  epoch : t.free.epoch = s.free.epoch

/-- Moreover the operation is still in progress as far as the host sees: STATUS and OUTLEN are unchanged too. -/
structure GoesOn (s t : State) : Prop extends KeepsInputs s t where
  busy : t.busy = s.busy
  done : t.done = s.done
  err : t.err = s.err
  outlen : t.outlen = s.outlen

theorem KeepsInputs.trans {s t u : State} (h : KeepsInputs s t) (k : KeepsInputs t u) : KeepsInputs s u :=
  ⟨k.ctx.trans h.ctx, k.inlen.trans h.inlen, k.ivlen.trans h.ivlen, k.plat.trans h.plat, k.host.trans h.host,
    k.inbuf.trans h.inbuf, k.ivmem.trans h.ivmem, k.epoch.trans h.epoch⟩

/-- A step that writes registers of the sequencer alone lets the operation go on. -/
theorem GoesOn.sequenced (s : State) (p : Phase) (pending : List Nat) (nblk padlen : Nat) :
    GoesOn s { s with phase := p, pending := pending, nblk := nblk, padlen := padlen } :=
  ⟨⟨rfl, rfl, rfl, rfl, rfl, rfl, rfl, rfl⟩, rfl, rfl, rfl, rfl⟩

theorem State.raise_keepsInputs (s : State) (e : EngineError) : KeepsInputs s (s.raise e) :=
  ⟨rfl, rfl, rfl, rfl, rfl, rfl, rfl, rfl⟩

theorem State.finish_keepsInputs (s : State) (n : Nat) : KeepsInputs s (s.finish n) :=
  ⟨rfl, rfl, rfl, rfl, rfl, rfl, rfl, rfl⟩

theorem State.choose_keepsInputs (s : State) (d : Dir) (m : Mode) : KeepsInputs s (s.choose d m) := by
  unfold State.choose
  split <;> exact ⟨rfl, rfl, rfl, rfl, rfl, rfl, rfl, rfl⟩

theorem State.checkStep_keepsInputs (s : State) (d : Dir) (m : Mode) : KeepsInputs s (s.checkStep d m) := by
  obtain ⟨e, -, h⟩ | ⟨-, -, -, ⟨-, h⟩ | ⟨-, h⟩⟩ := s.checkStep_cases d m <;> rw [h]
  · exact s.raise_keepsInputs e
  · exact (GoesOn.sequenced ..).toKeepsInputs
  · exact (GoesOn.sequenced ..).toKeepsInputs

theorem State.padStep_goesOn (s : State) (p : PadScheme) : GoesOn s (s.padStep p) :=
  ⟨⟨rfl, rfl, rfl, rfl, rfl, rfl, rfl, rfl⟩, rfl, rfl, rfl, rfl⟩

theorem State.loadFb_goesOn (s : State) (d : Dir) (m : Mode) : GoesOn s (s.loadFb d m) := by
  obtain ⟨-, -, h⟩ | ⟨-, -, h⟩ | ⟨-, -, h⟩ | ⟨-, -, h⟩ := s.loadFb_cases d m <;> rw [h] <;>
    exact ⟨⟨rfl, rfl, rfl, rfl, rfl, rfl, rfl, rfl⟩, rfl, rfl, rfl, rfl⟩

theorem State.initStep_goesOn (s : State) (d : Dir) (m : Mode) : GoesOn s (s.initStep d m) :=
  { s.loadFb_goesOn d m with }

/-- What a block step writes: the block of index `k`, and FB; `k` leaves PENDING. -/
def State.writeBlock (s : State) (d : Dir) (m : Mode) (k : Nat) (v fb : ByteString) : State :=
  ((s.putBlk d m k v).setFb fb).retire k

theorem State.writeBlock_goesOn (s : State) (d : Dir) (m : Mode) (k : Nat) (v fb : ByteString) :
    GoesOn s (s.writeBlock d m k v fb) :=
  ⟨⟨rfl, rfl, rfl, rfl, rfl, rfl, rfl, rfl⟩, rfl, rfl, rfl, rfl⟩

/-- Everything the end of BLOCKS can be (R201). -/
theorem State.closeBlocks_cases (s : State) (d : Dir) (m : Mode) :
    (d = .enc ∧ s.closeBlocks d m = s.finish (s.seedOff m + s.nblk * s.blkSz)) ∨
    (d = .dec ∧ m = .cbc ∧ s.closeBlocks d m = { s with pending := List.range s.nblk, phase := .combine }) ∨
    (d = .dec ∧ s.closeBlocks d m = { s with phase := .unpad }) := by
  cases d
  · exact .inl ⟨rfl, rfl⟩
  · by_cases hm : m = .cbc
    · exact .inr (.inl ⟨rfl, hm, by simp [State.closeBlocks, hm]⟩)
    · exact .inr (.inr ⟨rfl, by simp [State.closeBlocks, hm]⟩)

/-- Everything a COMBINE step can be (R202): the end of the phase, or one block written, FB unchanged. -/
theorem State.combineStep_cases (s : State) :
    (s.pending = [] ∧ s.combineStep = { s with phase := .unpad }) ∨
    (∃ k ∈ s.pending, ∃ v : ByteString, v.length = s.blkSz ∧ s.combineStep = s.writeBlock .dec .cbc k v s.fb) := by
  by_cases hp : s.pending = []
  · exact .inl ⟨hp, by simp [State.combineStep, hp]⟩
  · -- R203: COMBINE takes the least pending index, as a BLOCKS phase of fixed order (here ENC.CBC's) does.
    refine .inr ⟨s.nextIndex .enc .cbc, s.nextIndex_mem _ _ hp, _, ?_,
      (if_neg hp : s.combineStep = (s.combineBlock _).retire _)⟩
    split <;> simp

/-- Everything an UNPAD step can be (R125). -/
theorem State.unpadStep_cases (s : State) (p : PadScheme) :
    (∃ len ≤ s.nblk * s.blkSz, s.unpadStep p = s.finish len) ∨ s.unpadStep p = s.raise .padding := by
  unfold State.unpadStep
  split
  · next len h => exact .inl ⟨len, unpadLen_le h, rfl⟩
  · exact .inr rfl

theorem State.closeBlocks_keepsInputs (s : State) (d : Dir) (m : Mode) : KeepsInputs s (s.closeBlocks d m) := by
  obtain ⟨-, h⟩ | ⟨-, -, h⟩ | ⟨-, h⟩ := s.closeBlocks_cases d m <;> rw [h]
  · exact s.finish_keepsInputs _
  · exact (GoesOn.sequenced ..).toKeepsInputs
  · exact (GoesOn.sequenced ..).toKeepsInputs

theorem blocksStep_keepsInputs (i : Instr) (s : State) : KeepsInputs s (s.blocksStep i.dir i.mode (ruleOf i)) := by
  have hc := s.choose_keepsInputs i.dir i.mode
  obtain ⟨-, h⟩ | ⟨-, y, -, h⟩ | ⟨-, -, h⟩ := blocksStep_cases i s <;> rw [h]
  · exact s.closeBlocks_keepsInputs _ _
  · exact hc.trans ((s.choose i.dir i.mode).writeBlock_goesOn ..).toKeepsInputs
  · exact hc.trans (State.raise_keepsInputs ..)

theorem State.combineStep_keepsInputs (s : State) : KeepsInputs s s.combineStep := by
  obtain ⟨-, h⟩ | ⟨k, -, v, -, h⟩ := s.combineStep_cases <;> rw [h]
  · exact (GoesOn.sequenced ..).toKeepsInputs
  · exact (s.writeBlock_goesOn ..).toKeepsInputs

theorem State.unpadStep_keepsInputs (s : State) (p : PadScheme) : KeepsInputs s (s.unpadStep p) := by
  obtain ⟨len, -, h⟩ | h := s.unpadStep_cases p <;> rw [h]
  · exact s.finish_keepsInputs len
  · exact s.raise_keepsInputs .padding

/-- An engine step of an operation keeps the operation's inputs, in every phase. -/
theorem exec_keepsInputs {i : Instr} {s t : State} (hs : s.phase ≠ .idle) (h : exec i s = .next t) :
    KeepsInputs s t := by
  obtain ⟨hp, -⟩ | ⟨-, rfl⟩ | ⟨-, -, rfl⟩ | ⟨-, -, rfl⟩ | ⟨-, -, rfl⟩ | ⟨-, -, -, -, rfl⟩ | ⟨-, -, -, rfl⟩ :=
    exec_cases h
  · exact absurd hp hs
  · exact s.checkStep_keepsInputs _ _
  · exact (s.padStep_goesOn _).toKeepsInputs
  · exact (s.initStep_goesOn _ _).toKeepsInputs
  · exact blocksStep_keepsInputs i s
  · exact s.combineStep_keepsInputs
  · exact s.unpadStep_keepsInputs _

/-- Settles O40: in each phase the engine step writes none of its inputs, and a byte is read from the same memory. -/
theorem engineKeepsItsInputs : Obligations.EngineKeepsItsInputs := by
  intro i s t hs h
  have k := exec_keepsInputs hs h
  exact ⟨k.ctx, k.inlen, k.ivlen, k.plat, k.host, State.byteAt_congr (sp := .inbuf) k.inbuf k.epoch,
    State.byteAt_congr (sp := .ivmem) k.ivmem k.epoch⟩

/-! ## Reset (R40) -/

/-- Settles O50: every field has the value of the reset table by definition, and all three memories list nothing. -/
theorem resetState : Obligations.ResetState := by
  intro p
  refine ⟨rfl, rfl, rfl, rfl, rfl, rfl, rfl, rfl, rfl, rfl, rfl, rfl, fun sp a => ?_⟩
  cases sp <;> rfl

/-- The reset state meets the invariant: the engine is idle, and every memory and register is empty or 0. -/
theorem State.resetOn_inv {p : Platform} (hp : p.wellFormed = true) : (State.resetOn p).Inv where
  platform := hp
  inbufForm := rfl
  outbufForm := rfl
  ivmemForm := rfl
  inlenBound := Nat.zero_le _
  outlenBound := Nat.zero_le _
  ivlenBound := Nat.zero_le _
  idleIff := ⟨fun _ => rfl, fun _ => rfl⟩
  notBoth := by simp [State.resetOn]
  errDone := fun h => absurd rfl h
  errCodes := by simp [State.resetOn]
  busyOutlen := fun _ => rfl
  pendingForm := .nil
  operation := fun h => absurd rfl h

/-- Settles O52: the invariant holds of the reset state of each well-formed platform. -/
theorem resetMeetsInvariant : Obligations.ResetMeetsInvariant := fun _ hp => State.resetOn_inv hp

/-! ## The invariant under the operations of the state -/

/-- The invariant does not speak of the host or of where free values come from. -/
theorem State.OperationInv.withAgents {s : State} {i : Instr} (o : s.OperationInv i) (ha : HostAgent) (fr : FreeValues) :
    State.OperationInv { s with host := ha, free := fr } i :=
  { o with }

theorem State.Inv.withAgents {s : State} (h : s.Inv) (ha : HostAgent) (fr : FreeValues) :
    State.Inv { s with host := ha, free := fr } :=
  { h with
    operation := fun h1 h2 =>
      let ⟨i, hi, o⟩ := h.operation h1 h2
      ⟨i, hi, o.withAgents ha fr⟩ }

theorem State.Inv.popMove {s : State} (h : s.Inv) : s.popMove.Inv := h.withAgents _ _

theorem State.Inv.see {s : State} (h : s.Inv) (x : HostAnswer) : (s.see x).Inv := h.withAgents _ _

theorem State.Inv.countRead {s : State} (h : s.Inv) (sp : Space) (a : Nat) : (s.countRead sp a).Inv := by
  unfold State.countRead
  split
  · exact h
  · exact h.withAgents _ _

theorem State.Inv.choose {s : State} (h : s.Inv) (d : Dir) (m : Mode) : (s.choose d m).Inv := by
  unfold State.choose
  split
  · exact h.withAgents _ _
  · exact h

theorem State.Inv.assertReset {s : State} (h : s.Inv) : s.assertReset.Inv :=
  (State.resetOn_inv h.platform).withAgents _ _

theorem EngineError.code_ne (e : EngineError) : e.code ≠ 5 ∧ e.code ≠ 6 := by cases e <;> decide

theorem State.Inv.raise {s : State} (h : s.Inv) (e : EngineError) : (s.raise e).Inv :=
  { h with
    outbufForm := rfl
    outlenBound := Nat.zero_le _
    idleIff := ⟨fun _ => rfl, fun _ => rfl⟩
    notBoth := by simp
    errDone := fun _ => rfl
    errCodes := e.code_ne
    busyOutlen := fun _ => rfl
    operation := fun h1 => absurd rfl h1 }

theorem State.Inv.finish {s : State} (h : s.Inv) {n : Nat} (hn : n ≤ s.outCap) : (s.finish n).Inv :=
  { h with
    outlenBound := by
      change (BitVec.ofNat 32 n).toNat ≤ s.outCap
      rw [BitVec.toNat_ofNat]
      exact (Nat.mod_le ..).trans hn
    idleIff := ⟨fun _ => rfl, fun _ => rfl⟩
    notBoth := by simp
    errDone := fun _ => rfl
    errCodes := by simp
    busyOutlen := fun hb => by simp at hb
    operation := fun h1 => absurd rfl h1 }

theorem State.Inv.accept {s : State} (h : s.Inv) (w : Word) : (s.accept w).Inv :=
  { h with
    outlenBound := Nat.zero_le _
    idleIff := by simp
    notBoth := by simp
    errDone := fun h1 => absurd rfl h1
    errCodes := by simp
    busyOutlen := fun _ => rfl
    operation := fun _ h2 => absurd rfl h2 }

/-! ## The invariant under the moves of the host and the platform (R71, R72, R242) -/

section idle
variable {s : State} (h : s.Inv) (hb : s.busy = false)
include h hb

theorem State.Inv.setInlen {v : BitVec 32} (hv : v.toNat ≤ s.cap) : State.Inv { s with inlen := v } :=
  { h with inlenBound := hv, operation := fun h1 => absurd (h.idleIff.2 hb) h1 }

theorem State.Inv.setIvlen {v : BitVec 9} (hv : v.toNat ≤ ivCap) : State.Inv { s with ivlen := v } :=
  { h with ivlenBound := hv, operation := fun h1 => absurd (h.idleIff.2 hb) h1 }

theorem State.Inv.setInbuf {m : Memory} (hm : Memory.wf s.cap m = true) : State.Inv { s with inbuf := m } :=
  { h with inbufForm := hm, operation := fun h1 => absurd (h.idleIff.2 hb) h1 }

theorem State.Inv.setIvmem {m : Memory} (hm : Memory.wf ivCap m = true) : State.Inv { s with ivmem := m } :=
  { h with ivmemForm := hm, operation := fun h1 => absurd (h.idleIff.2 hb) h1 }

theorem State.Inv.setCipher {c : Option Cipher} (hc : c.all Cipher.wellFormed = true) : (s.setCipher c).Inv := by
  obtain ⟨hcap, houtCap, -⟩ := platform_ranges h.platform
  exact
    { h with
      platform := by
        simp only [Platform.wellFormed, Bool.and_eq_true, decide_eq_true_eq]
        exact ⟨⟨hc, hcap⟩, houtCap⟩
      operation := fun h1 => absurd (h.idleIff.2 hb) h1 }

end idle

theorem State.Inv.writeReg {s : State} (h : s.Inv) (n : Fin 8) (v : BitVec 32) : (s.writeReg n v).Inv := by
  unfold State.writeReg
  split
  · split
    · exact h
    · exact h.accept _
  · split
    · next hc => exact h.setInlen hc.1 hc.2
    · exact h
  · split
    · next hc => exact h.setIvlen hc.1 (by rw [BitVec.toNat_setWidth]; exact (Nat.mod_le ..).trans hc.2)
    · exact h
  all_goals exact h

theorem State.Inv.writeByte {s : State} (h : s.Inv) (sp : Space) (a : Nat) (v : Byte) : (s.writeByte sp a v).Inv := by
  unfold State.writeByte
  split
  · split
    · next hc => exact h.setInbuf hc.1 (Memory.wf_set v h.inbufForm hc.2)
    · exact h
  · split
    · next hc => exact h.setIvmem hc.1 (Memory.wf_set v h.ivmemForm hc.2)
    · exact h
  · exact h

theorem State.Inv.attach {s t : State} (h : s.Inv) {c : Option Cipher} (ht : s.attach c = .next t) : t.Inv := by
  unfold State.attach at ht
  split at ht
  · cases ht
  · next hb =>
    split at ht
    · next hc =>
      cases ht
      exact h.setCipher (by simpa using hb) hc
    · cases ht

/-- R242: a key call changes a function of the attached cipher, not its block size. -/
theorem State.Inv.setKey {s : State} (h : s.Inv) (hb : ¬ s.busy = true) {g : Cipher → Cipher}
    (hg : ∀ c, (g c).size = c.size) : (s.setCipher (s.plat.cipher.map g)).Inv := by
  refine h.setCipher (by simpa using hb) ?_
  have hw := h.platform
  simp only [Platform.wellFormed, Bool.and_eq_true] at hw
  cases hc : s.plat.cipher with
  | none => rfl
  | some c => simpa [hc, Cipher.wellFormed, hg] using hw.1.1

theorem State.Inv.setEncryptionKey {s t : State} (h : s.Inv) {f : PortFn} (ht : s.setEncryptionKey f = .next t) :
    t.Inv := by
  unfold State.setEncryptionKey at ht
  split at ht
  · cases ht
  · next hb =>
    cases ht
    exact h.setKey hb fun _ => rfl

theorem State.Inv.setDecryptionKey {s t : State} (h : s.Inv) {f : PortFn} (ht : s.setDecryptionKey f = .next t) :
    t.Inv := by
  unfold State.setDecryptionKey at ht
  split at ht
  · cases ht
  · next hb =>
    cases ht
    exact h.setKey hb fun _ => rfl

/-! ## The invariant under an engine step -/

/-- An engine step that does not end the operation keeps the invariant when what it writes does: OUTBUF, PENDING and the
operation's set-up. -/
theorem State.Inv.goesOn {s t : State} (h : s.Inv) (g : GoesOn s t) (hs : s.phase ≠ .idle) (ht : t.phase ≠ .idle)
    (hout : Memory.wf s.outCap t.outbuf = true) (hpend : t.pending.Pairwise (fun a b => a < b))
    (hop : ∃ i, decode s.ctx = .ok i ∧ t.OperationInv i) : t.Inv := by
  have hcap : t.cap = s.cap := by simp [State.cap, g.plat]
  have houtCap : t.outCap = s.outCap := by simp [State.outCap, g.plat]
  have hbusy : s.busy = true := by simpa using mt h.idleIff.2 hs
  exact
    { platform := by rw [g.plat]; exact h.platform
      inbufForm := by rw [hcap, g.inbuf]; exact h.inbufForm
      outbufForm := by rw [houtCap]; exact hout
      ivmemForm := by rw [g.ivmem]; exact h.ivmemForm
      inlenBound := by rw [hcap, g.inlen]; exact h.inlenBound
      outlenBound := by rw [houtCap, g.outlen]; exact h.outlenBound
      ivlenBound := by rw [g.ivlen]; exact h.ivlenBound
      idleIff := by simp [ht, g.busy, hbusy]
      notBoth := by rw [g.busy, g.done]; exact h.notBoth
      errDone := by rw [g.err, g.done]; exact h.errDone
      errCodes := by rw [g.err]; exact h.errCodes
      busyOutlen := by rw [g.busy, g.outlen]; exact h.busyOutlen
      pendingForm := hpend
      operation := fun _ _ => by rw [g.ctx]; exact hop }

/-- After CHECK, the operation that the invariant speaks of is the one of the command in CTX. -/
theorem State.Inv.operationOf {s : State} (h : s.Inv) {i : Instr} (hi : decode s.ctx = .ok i) (h1 : s.phase ≠ .idle)
    (h2 : s.phase ≠ .check) : s.OperationInv i := by
  obtain ⟨j, hj, o⟩ := h.operation h1 h2
  cases hi.symm.trans hj
  exact o

/-- The registers of an operation that no step in or after INIT writes (R33, R35). -/
structure KeepsSize (s t : State) : Prop where
  nblk : t.nblk = s.nblk
  padlen : t.padlen = s.padlen
  tail : t.tail = s.tail

/-- In and after INIT, the operation stays set up when the next phase is one of the command's and PENDING and FB fit it. -/
theorem State.OperationInv.goesOn {s t : State} {i : Instr} (o : s.OperationInv i) (g : KeepsInputs s t)
    (z : KeepsSize s t) (hs : s.phase ≠ .pad) (ht : t.phase ≠ .pad)
    (hunpad : t.phase = .unpad → i.dir = .dec)
    (hcombine : t.phase = .combine → i.dir = .dec ∧ i.mode = .cbc)
    (hpend : ∀ k ∈ t.pending, t.phase = .blocks ∨ t.phase = .combine → k < s.nblk)
    (hfb : t.phase = .blocks → usesFb i.dir i.mode = true → t.fb.length = s.blkSz) : t.OperationInv i := by
  have hblk : t.blkSz = s.blkSz := by simp [State.blkSz, g.plat]
  have hoff : t.seedOff i.mode = s.seedOff i.mode := by simp [State.seedOff, hblk]
  exact
    { bound := by rw [State.cbound, g.plat]; exact o.bound
      ivFits := by
        rw [← o.ivFits]
        simp [State.ivBad, State.needsIv, g.plat, g.ivlen, hblk]
      encSized := fun hd _ => by rw [z.nblk, z.padlen, z.tail, g.inlen, hblk]; exact o.encSized hd hs
      decSized := fun hd => by rw [z.nblk, z.padlen, g.inlen, hblk, hoff]; exact o.decSized hd
      padPhase := fun hp => absurd hp ht
      unpadPhase := hunpad
      combinePhase := hcombine
      pendingBelow := fun hp k hk => by rw [z.nblk]; exact hpend k hk hp
      feedback := fun hp hu => by rw [hblk]; exact hfb hp hu }

/-- R25: an attached cipher has a block size of at least 1. -/
theorem State.Inv.one_le_blkSz {s : State} (h : s.Inv) (hc : s.cbound = true) : 1 ≤ s.blkSz :=
  (platform_ranges h.platform).2.2.2 hc

/-- R193: a content that passes CHECK is the seed and whole blocks. -/
theorem State.inputBad_eq_false {s : State} {m : Mode} (h : s.inputBad m = false) :
    s.inlen.toNat = s.seedOff m + (s.inlen.toNat / s.blkSz - if m = .rd then 1 else 0) * s.blkSz := by
  simp only [State.inputBad, Bool.or_eq_false_iff, Bool.and_eq_false_iff, decide_eq_false_iff_not, not_not,
    not_lt] at h
  obtain ⟨hmod, hrd⟩ := h
  have hdvd : s.inlen.toNat / s.blkSz * s.blkSz = s.inlen.toNat := Nat.div_mul_cancel (Nat.dvd_of_mod_eq_zero hmod)
  by_cases hm : m = .rd
  · have hle : s.blkSz ≤ s.inlen.toNat := hrd.resolve_left (absurd hm)
    simp only [State.seedOff, hm, if_true, Nat.sub_mul, one_mul, hdvd]
    omega
  · simp [State.seedOff, hm, hdvd]

theorem State.Inv.checkStep {s : State} {i : Instr} (h : s.Inv) (hi : decode s.ctx = .ok i) (hp : s.phase = .check) :
    (s.checkStep i.dir i.mode).Inv := by
  obtain ⟨e, -, ht⟩ | ⟨hc, hin, hiv, ⟨hd, ht⟩ | ⟨hd, ht⟩⟩ := s.checkStep_cases i.dir i.mode <;> rw [ht]
  · exact h.raise e
  · refine h.goesOn (GoesOn.sequenced ..) (by simp [hp]) (by simp)
      h.outbufForm h.pendingForm ⟨i, hi, ?_⟩
    exact
      { bound := hc, ivFits := hiv
        encSized := fun _ hne => absurd rfl hne
        decSized := fun hd' => by simp [hd] at hd'
        padPhase := fun _ => hd
        unpadPhase := nofun, combinePhase := nofun, pendingBelow := by simp, feedback := nofun }
  · refine h.goesOn (GoesOn.sequenced ..) (by simp [hp]) (by simp)
      h.outbufForm h.pendingForm ⟨i, hi, ?_⟩
    exact
      { bound := hc, ivFits := hiv
        encSized := fun hd' => by simp [hd] at hd'
        decSized := fun _ => ⟨State.inputBad_eq_false (hin hd), rfl⟩
        padPhase := nofun
        unpadPhase := nofun, combinePhase := nofun, pendingBelow := by simp, feedback := nofun }

theorem State.Inv.padStep {s : State} {i : Instr} (h : s.Inv) (hi : decode s.ctx = .ok i) (hp : s.phase = .pad)
    (hd : i.dir = .enc) : (s.padStep i.pad).Inv := by
  have o := h.operationOf hi (by simp [hp]) (by simp [hp])
  have hb := h.one_le_blkSz o.bound
  obtain ⟨-, hle, hpos⟩ := padLen_spec i.pad s.blkSz s.inlen.toNat hb
  refine h.goesOn (s.padStep_goesOn i.pad) (by simp [hp]) nofun h.outbufForm h.pendingForm ⟨i, hi, ?_⟩
  exact
    { bound := o.bound, ivFits := o.ivFits
      encSized := fun _ _ => by
        refine ⟨padLen_blocks i.pad s.blkSz s.inlen.toNat hb, hle, ?_⟩
        simp only [State.padStep, List.length_append]
        rw [padBytes_length _ _ _ (s.rndBytes_length _) hpos]
        exact Nat.le_add_right ..
      decSized := fun hd' => by simp [hd] at hd'
      padPhase := nofun
      unpadPhase := nofun, combinePhase := nofun, pendingBelow := nofun, feedback := nofun }

/-- R199: INIT leaves a block in FB where the block rule reads it. -/
theorem State.loadFb_fb_length (s : State) {d : Dir} {m : Mode} (hu : usesFb d m = true) :
    (s.loadFb d m).fb.length = s.blkSz := by
  obtain ⟨hn, -, -⟩ | ⟨-, -, h⟩ | ⟨-, -, h⟩ | ⟨-, -, h⟩ := s.loadFb_cases d m
  · simp [hn] at hu
  all_goals simp [h, State.drawSeed]

/-- R180: what INIT writes to OUTBUF, the seed of ENC.RD, lies inside it. -/
theorem State.Inv.loadFb_outbuf {s : State} (h : s.Inv) {d : Dir} {m : Mode} (hs : s.spacesHold d m = true) :
    Memory.wf s.outCap (s.loadFb d m).outbuf = true := by
  obtain ⟨-, -, ht⟩ | ⟨-, -, ht⟩ | ⟨rfl, rfl, ht⟩ | ⟨-, -, ht⟩ := s.loadFb_cases d m <;> rw [ht]
  · exact h.outbufForm
  · exact h.outbufForm
  · refine Memory.wf_write h.outbufForm ?_
    obtain ⟨-, -, hfit, -⟩ := (s.spacesHold_enc .rd).1 hs
    simp only [State.seedOff, if_true] at hfit
    simp only [State.rndBytes_length]
    omega
  · exact h.outbufForm

theorem State.loadFb_keepsSize (s : State) (d : Dir) (m : Mode) : KeepsSize s (s.loadFb d m) := by
  obtain ⟨-, -, h⟩ | ⟨-, -, h⟩ | ⟨-, -, h⟩ | ⟨-, -, h⟩ := s.loadFb_cases d m <;> rw [h] <;> exact ⟨rfl, rfl, rfl⟩

theorem State.Inv.initStep {s : State} {i : Instr} (h : s.Inv) (hi : decode s.ctx = .ok i) (hp : s.phase = .init)
    (hs : s.spacesHold i.dir i.mode = true) : (s.initStep i.dir i.mode).Inv := by
  have o := h.operationOf hi (by simp [hp]) (by simp [hp])
  have g := s.initStep_goesOn i.dir i.mode
  refine h.goesOn g (by simp [hp]) nofun (h.loadFb_outbuf hs) List.pairwise_lt_range ⟨i, hi, ?_⟩
  exact o.goesOn g.toKeepsInputs { s.loadFb_keepsSize i.dir i.mode with } (by simp [hp]) nofun nofun nofun
    (fun k hk _ => List.mem_range.1 hk) (fun _ hu => s.loadFb_fb_length hu)

theorem Phase.ne_of_blocks_or_combine {p : Phase} (hp : p = .blocks ∨ p = .combine) :
    p ≠ .idle ∧ p ≠ .check ∧ p ≠ .pad := by
  rcases hp with rfl | rfl <;> decide

/-- A block written for a pending index keeps the invariant, in BLOCKS and in COMBINE (R69, R34, R36). -/
theorem State.Inv.writeBlock {s : State} {i : Instr} {k : Nat} {v fb : ByteString} (h : s.Inv)
    (hi : decode s.ctx = .ok i) (hp : s.phase = .blocks ∨ s.phase = .combine)
    (hs : s.spacesHold i.dir i.mode = true) (hk : k ∈ s.pending) (hv : v.length = s.blkSz)
    (hfb : usesFb i.dir i.mode = true → fb.length = s.blkSz) : (s.writeBlock i.dir i.mode k v fb).Inv := by
  obtain ⟨hidle, hcheck, hpad⟩ := Phase.ne_of_blocks_or_combine hp
  have o := h.operationOf hi hidle hcheck
  have g := s.writeBlock_goesOn i.dir i.mode k v fb
  refine h.goesOn g hidle hidle ?_ (h.pendingForm.filter _) ⟨i, hi, ?_⟩
  · exact Memory.wf_write h.outbufForm (hv ▸ State.outAddr_fits hs (o.pendingBelow hp k hk))
  · exact o.goesOn g.toKeepsInputs ⟨rfl, rfl, rfl⟩ hpad hpad o.unpadPhase o.combinePhase
      (fun j hj _ => o.pendingBelow hp j (List.mem_of_mem_filter hj)) (fun _ hu => hfb hu)

/-- R66: the result of an operation fits OUTBUF. -/
theorem State.result_fits {s : State} {d : Dir} {m : Mode} (h : s.spacesHold d m = true) :
    s.nblk * s.blkSz ≤ s.outCap ∧ (d = .enc → s.seedOff m + s.nblk * s.blkSz ≤ s.outCap) := by
  cases d
  · obtain ⟨-, -, hfit, -⟩ := (s.spacesHold_enc m).1 h
    exact ⟨by omega, fun _ => hfit⟩
  · exact ⟨((s.spacesHold_dec m).1 h).2.2.2, nofun⟩

/-- The step into UNPAD, from BLOCKS or from COMBINE, keeps the invariant. -/
theorem State.Inv.toUnpad {s : State} {i : Instr} (h : s.Inv) (hi : decode s.ctx = .ok i)
    (hp : s.phase = .blocks ∨ s.phase = .combine) (hd : i.dir = .dec) : State.Inv { s with phase := .unpad } := by
  obtain ⟨hidle, hcheck, hpad⟩ := Phase.ne_of_blocks_or_combine hp
  have o := h.operationOf hi hidle hcheck
  refine h.goesOn (GoesOn.sequenced ..) hidle nofun h.outbufForm h.pendingForm
    ⟨i, hi, ?_⟩
  exact o.goesOn (GoesOn.sequenced ..).toKeepsInputs ⟨rfl, rfl, rfl⟩ hpad nofun (fun _ => hd) nofun
    (fun _ _ => nofun) nofun

theorem State.Inv.closeBlocks {s : State} {i : Instr} (h : s.Inv) (hi : decode s.ctx = .ok i) (hp : s.phase = .blocks)
    (hs : s.spacesHold i.dir i.mode = true) : (s.closeBlocks i.dir i.mode).Inv := by
  obtain ⟨hd, ht⟩ | ⟨hd, hm, ht⟩ | ⟨hd, ht⟩ := s.closeBlocks_cases i.dir i.mode <;> rw [ht]
  · exact h.finish ((State.result_fits hs).2 hd)
  · have o := h.operationOf hi (by simp [hp]) (by simp [hp])
    refine h.goesOn (GoesOn.sequenced ..) (by simp [hp]) nofun h.outbufForm
      List.pairwise_lt_range ⟨i, hi, ?_⟩
    exact o.goesOn (GoesOn.sequenced ..).toKeepsInputs ⟨rfl, rfl, rfl⟩ (by simp [hp]) nofun nofun
      (fun _ => ⟨hd, hm⟩) (fun k hk _ => List.mem_range.1 hk) nofun
  · exact h.toUnpad hi (.inl hp) hd

theorem State.spacesHold_choose (s : State) (d d' : Dir) (m m' : Mode) :
    (s.choose d' m').spacesHold d m = s.spacesHold d m := by
  unfold State.choose
  split <;> rfl

theorem State.Inv.blocksStep {s : State} {i : Instr} (h : s.Inv) (hi : decode s.ctx = .ok i) (hp : s.phase = .blocks)
    (hs : s.spacesHold i.dir i.mode = true) : (s.blocksStep i.dir i.mode (ruleOf i)).Inv := by
  have hc := h.choose i.dir i.mode
  obtain ⟨-, ht⟩ | ⟨hne, y, hy, ht⟩ | ⟨-, -, ht⟩ := blocksStep_cases i s <;> rw [ht]
  · exact h.closeBlocks hi hp hs
  · have o := hc.operationOf (i := i) (by simpa using hi) (by simp [hp]) (by simp [hp])
    have hfb := o.feedback (by simpa using hp)
    have hlen := blockRequest_length hy
    exact hc.writeBlock (by simpa using hi) (.inl (by simpa using hp)) (by rwa [State.spacesHold_choose])
      (by simpa using s.nextIndex_mem _ _ hne) (blockValue_length hlen hfb) (blockFb_length hlen hfb)
  · exact hc.raise .cipher

theorem State.Inv.combineStep {s : State} {i : Instr} (h : s.Inv) (hi : decode s.ctx = .ok i) (hp : s.phase = .combine)
    (hd : i.dir = .dec) (hm : i.mode = .cbc) (hs : s.spacesHold i.dir i.mode = true) : s.combineStep.Inv := by
  obtain ⟨-, ht⟩ | ⟨k, hk, v, hv, ht⟩ := s.combineStep_cases <;> rw [ht]
  · exact h.toUnpad hi (.inr hp) hd
  · rw [← hd, ← hm]
    exact h.writeBlock hi (.inr hp) hs hk hv (by simp [hd, hm, usesFb])

theorem State.Inv.unpadStep {s : State} {i : Instr} (h : s.Inv) (hs : s.spacesHold i.dir i.mode = true) :
    (s.unpadStep i.pad).Inv := by
  obtain ⟨len, hlen, ht⟩ | ht := s.unpadStep_cases i.pad <;> rw [ht]
  · exact h.finish (hlen.trans (State.result_fits hs).1)
  · exact h.raise .padding

/-- R66: a block step's operands exist only where the operation's spaces hold. -/
theorem State.spacesHold_of_blockHolds {s : State} {d : Dir} {m : Mode} (h : s.blockHolds d m = true) :
    s.spacesHold d m = true := by
  simp only [State.blockHolds, Bool.and_eq_true] at h
  exact h.1.1

/-- The engine step of the command in CTX keeps the invariant, in every phase. -/
theorem State.Inv.exec {s t : State} {i : Instr} (h : s.Inv) (hi : decode s.ctx = .ok i) (ht : exec i s = .next t) :
    t.Inv := by
  obtain ⟨-, rfl⟩ | ⟨hp, rfl⟩ | ⟨hp, hd, rfl⟩ | ⟨hp, hs, rfl⟩ | ⟨hp, hs, rfl⟩ | ⟨hp, hd, hm, hs, rfl⟩ |
    ⟨-, -, hs, rfl⟩ := exec_cases ht
  · exact h.accept _
  · exact h.checkStep hi hp
  · exact h.padStep hi hp hd
  · exact h.initStep hi hp hs
  · exact h.blocksStep hi hp (State.spacesHold_of_blockHolds hs)
  · exact h.combineStep hi hp hd hm (State.spacesHold_of_blockHolds hs)
  · exact h.unpadStep hs

/-! ## The invariant under a step -/

/-- Everything an engine step of an illegal word can be (R220). -/
theorem State.illegalStep_next {s t : State} (h : s.illegalStep = .next t) : t = s.raise .configuration := by
  unfold State.illegalStep at h
  split at h <;> cases h
  rfl

theorem State.Inv.engineTurn {s t : State} (h : s.Inv) (ht : engineTurn s = .next t) : t.Inv := by
  unfold Machine.engineTurn runCommand at ht
  split at ht
  · split at ht
    · next i hi => exact h.exec hi ht
    · rw [State.illegalStep_next ht]
      exact h.raise .configuration
  · cases ht
    exact h

theorem State.Inv.hostTurn {s t : State} {m : HostMove} (h : s.Inv) (ht : hostTurn m s = .next t) : t.Inv := by
  cases m with
  | readReg n => cases ht; exact h.see _
  | writeReg n v => cases ht; exact h.writeReg n v
  | readByte sp a => cases ht; exact (h.countRead sp a).see _
  | writeByte sp a v => cases ht; exact h.writeByte sp a v
  | wait => cases ht; exact h.see _
  | engine => exact h.engineTurn ht
  | reset => cases ht; exact h.assertReset
  | attach c => exact h.attach ht
  | setEncryptionKey f => exact h.setEncryptionKey ht
  | setDecryptionKey f => exact h.setDecryptionKey ht

/-- Settles O53: a step is the engine's, phase by phase, or a move of the host or the platform. -/
theorem stepKeepsInvariant : Obligations.StepKeepsInvariant := by
  intro s t h ht
  unfold step turn at ht
  split at ht
  · exact h.engineTurn ht
  · split at ht
    · exact h.engineTurn ht
    · exact h.popMove.hostTurn ht

end Sys2Proof.Machine
end

section
/-!
PROOFS. The memory family: whose turn a step is, what the host's reads and writes do, the block an engine step stores, what a
host may rely on, and that no state of the invariant is stuck.
-/

namespace Sys2Proof.Machine

/-! ## Whose turn it is (R74, R101) -/

theorem step_of_no_move {s : State} (h : s.host.todo = []) : step s = engineTurn s := by
  simp [step, turn, h]

theorem step_of_waiting {s : State} {rest : List HostMove} (h : s.host.todo = .wait :: rest) (hb : s.busy = true) :
    step s = engineTurn s := by
  simp [step, turn, h, hb]

/-- A step takes the host's first move, except while the host waits for a busy engine. -/
theorem step_of_move {s : State} {m : HostMove} {rest : List HostMove} (h : s.host.todo = m :: rest)
    (hm : ¬ (m = .wait ∧ s.busy = true)) : step s = hostTurn m { s with host := { s.host with todo := rest } } := by
  simp [step, turn, h, hm, State.popMove]

/-- A step is the engine's, or it takes the host's first move. -/
theorem step_cases (s : State) :
    step s = engineTurn s ∨
    ∃ m rest, s.host.todo = m :: rest ∧ step s = hostTurn m { s with host := { s.host with todo := rest } } := by
  cases h : s.host.todo with
  | nil => exact .inl (step_of_no_move h)
  | cons m rest =>
    by_cases hm : m = .wait ∧ s.busy = true
    · exact .inl (step_of_waiting (hm.1 ▸ h) hm.2)
    · exact .inr ⟨m, rest, rfl, step_of_move h hm⟩

theorem engineTurn_of_idle {s : State} (hb : s.busy = false) : engineTurn s = .next s := by
  simp [engineTurn, hb]

theorem engineTurn_of_decoded {s : State} {i : Instr} (hb : s.busy = true) (hi : decode s.ctx = .ok i) :
    engineTurn s = exec i s := by
  simp [engineTurn, runCommand, hb, hi]

theorem engineTurn_of_illegal {s : State} {e : DecodeError} (hb : s.busy = true) (he : decode s.ctx = .error e) :
    engineTurn s = s.illegalStep := by
  simp [engineTurn, runCommand, hb, he]

/-- Settles O5: each of the three turns is the engine's, and a busy engine runs the command that CTX decodes to. -/
theorem stepRunsDecodedInstruction : Obligations.StepRunsDecodedInstruction := by
  intro s i hb hi
  refine ⟨fun h => ?_, fun h => ?_, fun h => ?_⟩
  · rw [step_of_no_move h, engineTurn_of_decoded hb hi]
  · obtain ⟨rest, hr⟩ := List.head?_eq_some_iff.1 h
    have hpop : s.popMove = { s with host := { s.host with todo := rest } } := by simp [State.popMove, hr]
    rw [step_of_move hr nofun, hpop]
    exact engineTurn_of_decoded hb hi
  · obtain ⟨rest, hr⟩ := List.head?_eq_some_iff.1 h
    rw [step_of_waiting hr hb, engineTurn_of_decoded hb hi]

/-! ## The registers, read and written by the host (R70, R71) -/

/-- R23: STATUS by the weights of its fields. -/
theorem statusFields_toNat : ∀ (bound done busy : Bool) (err : BitVec 3),
    (0#2 ++ BitVec.ofBool bound ++ err ++ BitVec.ofBool done ++ BitVec.ofBool busy).toNat =
      (if busy then 1 else 0) + 2 * (if done then 1 else 0) + 4 * err.toNat + 32 * (if bound then 1 else 0) := by
  decide

/-- Settles O44: the value is the register's, zero-extended to 32 bits, so none of its bits is lost. -/
theorem hostReadsRegister : Obligations.HostReadsRegister := by
  intro s n rest h
  refine ⟨s.readReg n, step_of_move h nofun, ?_⟩
  refine ⟨?_, ?_, ?_, ?_, ?_, ?_, ?_, ?_⟩ <;> rintro rfl
  · rfl
  · exact (BitVec.toNat_setWidth_of_le (by decide)).trans (statusFields_toNat ..)
  · exact BitVec.toNat_setWidth_of_le (by decide)
  · intro hp
    obtain ⟨-, -, hsize, -⟩ := platform_ranges hp
    refine ((BitVec.toNat_ofNat ..).trans (Nat.mod_eq_of_lt (hsize.trans_lt (by decide)))).trans ?_
    unfold blockSizeOf
    cases s.plat.cipher <;> rfl
  · rfl
  · rfl
  · exact BitVec.toNat_setWidth_of_le (by decide)
  · rfl

/-- Settles O45: the step is `writeReg`, whose two conditions are those of R71. -/
theorem hostWritesRegister : Obligations.HostWritesRegister := by
  intro s n v rest h s0
  have hstep : step s = .next (s0.writeReg n v) := step_of_move h nofun
  rw [hstep]
  refine ⟨?_, ?_, ?_, ?_, ?_⟩
  · rintro rfl hb hv
    exact congrArg _ (if_pos ⟨hb, hv⟩)
  · rintro rfl hn
    exact congrArg _ (if_neg hn)
  · rintro rfl hb hv
    refine ⟨{ s0 with ivlen := v.setWidth 9 }, congrArg _ (if_pos ⟨hb, hv⟩), ?_, rfl⟩
    exact (BitVec.toNat_setWidth ..).trans (Nat.mod_eq_of_lt (by omega))
  · rintro rfl hn
    exact congrArg _ (if_neg hn)
  · rintro (rfl | rfl | rfl | rfl | rfl) <;> rfl

/-! ## The memories, read and written by the host (R72, R73) -/

/-- A byte read after a write of one byte, `d` being the value of an unlisted byte. -/
theorem Memory.getD_get?_set (m : Memory) (a : Nat) (v : Byte) (b : Nat) (d : Byte) :
    ((Memory.set m a v).get? b).getD d = if b = a then v else (Memory.get? m b).getD d := by
  rw [Memory.get?_set]
  split <;> rfl

/-- Settles O46: the step is `writeByte`, whose conditions are those of R72. -/
theorem hostWritesByte : Obligations.HostWritesByte := by
  intro s sp a v rest h s0
  have hstep : step s = .next (s0.writeByte sp a v) := step_of_move h nofun
  rw [hstep]
  refine ⟨?_, ?_, ?_, ?_, ?_⟩
  · rintro rfl hb ha
    exact ⟨{ s0 with inbuf := s0.inbuf.set a v }, congrArg _ (if_pos ⟨hb, ha⟩),
      fun b => Memory.getD_get?_set .., rfl⟩
  · rintro rfl hn
    exact congrArg _ (if_neg hn)
  · rintro rfl hb ha
    exact ⟨{ s0 with ivmem := s0.ivmem.set a v }, congrArg _ (if_pos ⟨hb, ha⟩),
      fun b => Memory.getD_get?_set .., rfl⟩
  · rintro rfl hn
    exact congrArg _ (if_neg hn)
  · rintro rfl
    rfl

/-- Counting an unspecified byte changes the counter of those alone. -/
theorem State.countRead_eq (s : State) (sp : Space) (a : Nat) :
    s.countRead sp a = { s with free := { s.free with reads := (s.countRead sp a).free.reads } } := by
  unfold State.countRead
  split <;> rfl

theorem State.readByte_of_readable {s : State} {sp : Space} {a : Nat} (h : s.readable sp a = true) :
    s.readByte sp a = s.byteAt sp a := if_pos h

/-- Settles O47: the byte is `readByte`'s, which is the byte of the space where `readable` is what R73 says. -/
theorem hostReadsByte : Obligations.HostReadsByte := by
  intro s sp a rest h
  let s0 : State := { s with host := { s.host with todo := rest } }
  refine ⟨s.readByte sp a, (s0.countRead sp a).see (.byte sp a (s.readByte sp a)), step_of_move h nofun, ?_, ?_, ?_, ?_, ?_⟩
  · rw [State.countRead_eq]
    rfl
  · rintro rfl ha
    exact State.readByte_of_readable (decide_eq_true ha)
  · rintro rfl ha
    exact State.readByte_of_readable (decide_eq_true ha)
  · rintro rfl hd he ha
    exact State.readByte_of_readable (by simp [State.readable, hd, he, ha])
  · rw [State.countRead_eq]
    rfl

/-! ## The block an engine step stores (R69, R144, R180) -/

theorem EngineError.code_ne_zero (e : EngineError) : e.code ≠ 0 := by cases e <;> decide

/-- R226: a step that raises is an error end. -/
theorem State.raise_ends_in_error (s : State) (e : EngineError) :
    ¬ ((s.raise e).phase ≠ .idle ∨ (s.raise e).err = 0) :=
  fun h => h.elim (fun hp => hp rfl) e.code_ne_zero

/-- A block written for index `k` leaves OUTBUF outside that block as it was. -/
theorem State.byteAt_writeBlock_outside {s : State} {d : Dir} {m : Mode} {k a : Nat} {v fb : ByteString}
    (hv : v.length = s.blkSz) (ha : ¬ (s.outAddr d m k ≤ a ∧ a < s.outAddr d m k + s.blkSz)) :
    (s.writeBlock d m k v fb).byteAt .outbuf a = s.byteAt .outbuf a :=
  (s.byteAt_writeOut (s.outAddr d m k) v a).trans (if_neg (hv ▸ ha))

/-- R180: INIT stores the seed of ENC.RD and nothing else. -/
theorem State.byteAt_initStep_outside {s : State} {d : Dir} {m : Mode} {a : Nat}
    (ha : ¬ (d = .enc ∧ m = .rd ∧ a < s.blkSz)) :
    (s.initStep d m).byteAt .outbuf a = s.byteAt .outbuf a := by
  change (s.loadFb d m).byteAt .outbuf a = _
  obtain ⟨-, -, h⟩ | ⟨-, -, h⟩ | ⟨hd, hm, h⟩ | ⟨-, -, h⟩ := s.loadFb_cases d m <;> rw [h]
  · rfl
  · refine (State.byteAt_writeOut _ 0 _ a).trans (if_neg fun hlt => ha ⟨hd, hm, ?_⟩)
    simpa using hlt
  · rfl

/-- R201: the end of BLOCKS stores nothing. -/
theorem State.byteAt_closeBlocks (s : State) (d : Dir) (m : Mode) (a : Nat) :
    (s.closeBlocks d m).byteAt .outbuf a = s.byteAt .outbuf a := by
  obtain ⟨-, h⟩ | ⟨-, -, h⟩ | ⟨-, h⟩ := s.closeBlocks_cases d m <;> rw [h] <;> rfl

theorem State.outAddr_choose (s : State) (d : Dir) (m : Mode) (k : Nat) :
    (s.choose d m).outAddr d m k = s.outAddr d m k := by
  unfold State.choose
  split <;> rfl

/-- R36: in BLOCKS, FB holds a block where the rule reads it. -/
theorem State.fb_length_of_blockHolds {s : State} {d : Dir} {m : Mode} (h : s.blockHolds d m = true)
    (hu : usesFb d m = true) : s.fb.length = s.blkSz := by
  simp only [State.blockHolds, hu, Bool.and_eq_true] at h
  simpa using h.2

/-- R201: a BLOCKS step that does not end in CipherError stores the block of the index it takes and nothing else. -/
theorem byteAt_blocksStep_outside {i : Instr} {s : State} {a : Nat} (hs : s.blockHolds i.dir i.mode = true)
    (hne : (s.blocksStep i.dir i.mode (ruleOf i)).phase ≠ .idle ∨ (s.blocksStep i.dir i.mode (ruleOf i)).err = 0)
    (ha : ¬ (s.pending ≠ [] ∧ s.outAddr i.dir i.mode (s.nextIndex i.dir i.mode) ≤ a ∧
      a < s.outAddr i.dir i.mode (s.nextIndex i.dir i.mode) + s.blkSz)) :
    (s.blocksStep i.dir i.mode (ruleOf i)).byteAt .outbuf a = s.byteAt .outbuf a := by
  obtain ⟨-, h⟩ | ⟨hp, y, hy, h⟩ | ⟨-, -, h⟩ := blocksStep_cases i s
  · rw [h, State.byteAt_closeBlocks]
  · have hv := blockValue_length (k := s.nextIndex i.dir i.mode) (blockRequest_length hy)
      fun hu => by simpa using State.fb_length_of_blockHolds hs hu
    rw [h, ← s.byteAt_choose i.dir i.mode]
    exact State.byteAt_writeBlock_outside hv (by simpa [State.outAddr_choose, hp] using ha)
  · exact (State.raise_ends_in_error _ _ (h ▸ hne)).elim

/-- R202: a COMBINE step with an index pending writes the block of the least one. -/
theorem State.combineStep_of_pending {s : State} (hp : s.pending ≠ []) :
    ∃ v : ByteString, v.length = s.blkSz ∧
      s.combineStep = s.writeBlock .dec .cbc (s.pending.min?.getD 0) v s.fb := by
  refine ⟨_, ?_, (if_neg hp : s.combineStep = (s.combineBlock _).retire _)⟩
  split <;> simp

theorem State.byteAt_combineStep_outside {s : State} {a : Nat}
    (ha : ¬ (s.pending ≠ [] ∧ s.pending.min?.getD 0 * s.blkSz ≤ a ∧ a < s.pending.min?.getD 0 * s.blkSz + s.blkSz)) :
    s.combineStep.byteAt .outbuf a = s.byteAt .outbuf a := by
  by_cases hp : s.pending = []
  · simp only [State.combineStep, if_pos hp]
    rfl
  · obtain ⟨v, hv, h⟩ := State.combineStep_of_pending hp
    rw [h]
    exact State.byteAt_writeBlock_outside hv fun hin => ha ⟨hp, hin⟩

/-- R191: a CHECK step stores nothing, unless it raises. -/
theorem State.byteAt_checkStep {s : State} {d : Dir} {m : Mode}
    (hne : (s.checkStep d m).phase ≠ .idle ∨ (s.checkStep d m).err = 0) (a : Nat) :
    (s.checkStep d m).byteAt .outbuf a = s.byteAt .outbuf a := by
  obtain ⟨e, -, h⟩ | ⟨-, -, -, ⟨-, h⟩ | ⟨-, h⟩⟩ := s.checkStep_cases d m
  · exact (State.raise_ends_in_error _ _ (h ▸ hne)).elim
  · rw [h]; rfl
  · rw [h]; rfl

/-- R125: an UNPAD step stores nothing, unless it raises. -/
theorem State.byteAt_unpadStep {s : State} {p : PadScheme}
    (hne : (s.unpadStep p).phase ≠ .idle ∨ (s.unpadStep p).err = 0) (a : Nat) :
    (s.unpadStep p).byteAt .outbuf a = s.byteAt .outbuf a := by
  obtain ⟨len, -, h⟩ | h := s.unpadStep_cases p
  · rw [h]; rfl
  · exact (State.raise_ends_in_error _ _ (h ▸ hne)).elim

/-- Settles O41: phase by phase, the step stores what `storesAt` says of its phase. -/
theorem engineStoreFrame : Obligations.EngineStoreFrame := by
  intro i s t a h hne ha
  unfold storesAt at ha
  obtain ⟨-, rfl⟩ | ⟨-, rfl⟩ | ⟨-, -, rfl⟩ | ⟨hp, -, rfl⟩ | ⟨hp, hs, rfl⟩ | ⟨hp, -, -, -, rfl⟩ | ⟨-, -, -, rfl⟩ :=
    exec_cases h
  · rfl
  · exact State.byteAt_checkStep hne a
  · rfl
  · rw [hp] at ha
    exact State.byteAt_initStep_outside ha
  · rw [hp] at ha
    exact byteAt_blocksStep_outside hs hne ha
  · rw [hp] at ha
    exact State.byteAt_combineStep_outside ha
  · exact State.byteAt_unpadStep hne a

/-! ## What a host may rely on (R74) -/

theorem dirOf_code : ∀ (f : BitVec 4) (d : Dir), dirOf f = some d → d.code = f := by
  intro f d
  revert f
  cases d <;> decide

theorem modeOf_code : ∀ (f : BitVec 4) (m : Mode), modeOf f = some m → m.code = f := by
  intro f m
  revert f
  cases m <;> decide

theorem padOf_code : ∀ (f : BitVec 4) (p : PadScheme), padOf f = some p → p.code = f := by
  intro f p
  revert f
  cases p <;> decide

theorem encode_ofTags (d : Dir) (m : Mode) (opt : BitVec 4) (p : PadScheme) :
    encode (Instr.ofTags d m opt p) = d.code ++ opt ++ m.code ++ p.code := by
  cases d <;> cases m <;> rfl

/-- R90: a word is its four fields. -/
theorem fields_append (w : Word) : opcField w ++ optField w ++ modeField w ++ padField w = w := by
  unfold opcField optField modeField padField
  rw [BitVec.extractLsb'_append_extractLsb'_eq_extractLsb' (by decide),
    BitVec.extractLsb'_append_extractLsb'_eq_extractLsb' (by decide),
    BitVec.extractLsb'_append_extractLsb'_eq_extractLsb' (by decide)]
  exact BitVec.extractLsb'_eq_self

/-- R99: a word that decodes is the word of its command. -/
theorem encode_of_decode {w : Word} {i : Instr} (h : decode w = .ok i) : encode i = w := by
  unfold decode at h
  split at h <;> cases h
  next d m p hd hm hp =>
    rw [encode_ofTags, dirOf_code _ _ hd, modeOf_code _ _ hm, padOf_code _ _ hp, fields_append]

/-- The command word, the message, the IV and their lengths are in `t` as they are in `s`. -/
structure KeepsMessage (s t : State) : Prop where
  ctx : t.ctx = s.ctx
  inlen : t.inlen = s.inlen
  ivlen : t.ivlen = s.ivlen
  inbuf : t.inbuf = s.inbuf
  ivmem : t.ivmem = s.ivmem
  epoch : t.free.epoch = s.free.epoch

theorem KeepsMessage.refl (s : State) : KeepsMessage s s := ⟨rfl, rfl, rfl, rfl, rfl, rfl⟩

theorem KeepsInputs.toKeepsMessage {s t : State} (k : KeepsInputs s t) : KeepsMessage s t := { k with }

/-- What the last operation ended with, its result included, is in `t` as it is in `s`. -/
structure KeepsResult (s t : State) : Prop where
  err : t.err = s.err
  done : t.done = s.done
  outlen : t.outlen = s.outlen
  outbuf : t.outbuf = s.outbuf
  epoch : t.free.epoch = s.free.epoch

theorem KeepsResult.refl (s : State) : KeepsResult s s := ⟨rfl, rfl, rfl, rfl, rfl⟩

/-- An engine step of the command in CTX keeps the message: where it accepts a word (R190), that word stands in CTX. -/
theorem exec_keepsMessage {i : Instr} {s t : State} (hi : decode s.ctx = .ok i) (h : exec i s = .next t) :
    KeepsMessage s t := by
  by_cases hp : s.phase = .idle
  · rw [exec_idle hp] at h
    cases h
    exact { KeepsMessage.refl s with ctx := encode_of_decode hi }
  · exact (exec_keepsInputs hp h).toKeepsMessage

theorem engineTurn_keepsMessage {s t : State} (hb : s.busy = true) (h : engineTurn s = .next t) :
    KeepsMessage s t := by
  cases hd : decode s.ctx with
  | ok i => exact exec_keepsMessage hd ((engineTurn_of_decoded hb hd).symm.trans h)
  | error e =>
    rw [State.illegalStep_next ((engineTurn_of_illegal hb hd).symm.trans h)]
    exact (s.raise_keepsInputs _).toKeepsMessage

/-- R242, R260: the platform's moves go on outside an operation alone, and then change the attached cipher. -/
theorem State.attach_next {s t : State} {c : Option Cipher} (h : s.attach c = .next t) :
    s.busy = false ∧ t = s.setCipher c := by
  unfold State.attach at h
  split at h
  · cases h
  · next hb =>
    split at h <;> cases h
    exact ⟨by simpa using hb, rfl⟩

theorem State.setEncryptionKey_next {s t : State} {f : PortFn} (h : s.setEncryptionKey f = .next t) :
    s.busy = false ∧ ∃ c, t = s.setCipher c := by
  unfold State.setEncryptionKey at h
  split at h
  · cases h
  · next hb =>
    cases h
    exact ⟨by simpa using hb, _, rfl⟩

theorem State.setDecryptionKey_next {s t : State} {f : PortFn} (h : s.setDecryptionKey f = .next t) :
    s.busy = false ∧ ∃ c, t = s.setCipher c := by
  unfold State.setDecryptionKey at h
  split at h
  · cases h
  · next hb =>
    cases h
    exact ⟨by simpa using hb, _, rfl⟩

/-- R71, R72: a busy engine drops the host's writes. -/
theorem State.writeReg_of_busy {s : State} (hb : s.busy = true) (n : Fin 8) (v : BitVec 32) : s.writeReg n v = s := by
  unfold State.writeReg
  split <;> simp [hb]

theorem State.writeByte_of_busy {s : State} (hb : s.busy = true) (sp : Space) (a : Nat) (v : Byte) :
    s.writeByte sp a v = s := by
  unfold State.writeByte
  split <;> simp [hb]

/-- R71: a write to a register other than CMD changes no result. -/
theorem State.writeReg_keepsResult (s : State) {n : Fin 8} (hn : n ≠ 0) (v : BitVec 32) :
    KeepsResult s (s.writeReg n v) := by
  unfold State.writeReg
  split
  · exact absurd rfl hn
  · split <;> exact ⟨rfl, rfl, rfl, rfl, rfl⟩
  · split <;> exact ⟨rfl, rfl, rfl, rfl, rfl⟩
  all_goals exact .refl s

theorem State.writeByte_keepsResult (s : State) (sp : Space) (a : Nat) (v : Byte) :
    KeepsResult s (s.writeByte sp a v) := by
  unfold State.writeByte
  split
  · split <;> exact ⟨rfl, rfl, rfl, rfl, rfl⟩
  · split <;> exact ⟨rfl, rfl, rfl, rfl, rfl⟩
  · exact .refl s

/-- While the engine is busy, no move of the host or the platform but a reset changes the message. -/
theorem hostTurn_keepsMessage {s t : State} {m : HostMove} (h : hostTurn m s = .next t) (hb : s.busy = true)
    (hm : m ≠ .reset) : KeepsMessage s t := by
  cases m with
  | readReg n => cases h; exact ⟨rfl, rfl, rfl, rfl, rfl, rfl⟩
  | writeReg n v => cases h; rw [State.writeReg_of_busy hb]; exact .refl s
  | readByte sp a => cases h; rw [State.countRead_eq]; exact ⟨rfl, rfl, rfl, rfl, rfl, rfl⟩
  | writeByte sp a v => cases h; rw [State.writeByte_of_busy hb]; exact .refl s
  | wait => cases h; exact ⟨rfl, rfl, rfl, rfl, rfl, rfl⟩
  | engine => exact engineTurn_keepsMessage hb h
  | reset => exact absurd rfl hm
  | attach c => exact absurd hb (by simp [(State.attach_next h).1])
  | setEncryptionKey f => exact absurd hb (by simp [(State.setEncryptionKey_next h).1])
  | setDecryptionKey f => exact absurd hb (by simp [(State.setDecryptionKey_next h).1])

/-- While the engine is idle, no move of the host or the platform but a reset or a write to CMD changes the result. -/
theorem hostTurn_keepsResult {s t : State} {m : HostMove} (h : hostTurn m s = .next t) (hb : s.busy = false)
    (hm : m ≠ .reset) (hw : ∀ v, m ≠ .writeReg 0 v) : KeepsResult s t := by
  cases m with
  | readReg n => cases h; exact ⟨rfl, rfl, rfl, rfl, rfl⟩
  | writeReg n v => cases h; exact s.writeReg_keepsResult (fun hn => hw v (hn ▸ rfl)) v
  | readByte sp a => cases h; rw [State.countRead_eq]; exact ⟨rfl, rfl, rfl, rfl, rfl⟩
  | writeByte sp a v => cases h; exact s.writeByte_keepsResult sp a v
  | wait => cases h; exact ⟨rfl, rfl, rfl, rfl, rfl⟩
  | engine => cases (engineTurn_of_idle hb).symm.trans h; exact .refl s
  | reset => exact absurd rfl hm
  | attach c => rw [(State.attach_next h).2]; exact ⟨rfl, rfl, rfl, rfl, rfl⟩
  | setEncryptionKey f => obtain ⟨-, c, rfl⟩ := State.setEncryptionKey_next h; exact ⟨rfl, rfl, rfl, rfl, rfl⟩
  | setDecryptionKey f => obtain ⟨-, c, rfl⟩ := State.setDecryptionKey_next h; exact ⟨rfl, rfl, rfl, rfl, rfl⟩

theorem step_keepsMessage {s t : State} (hb : s.busy = true) (hr : s.host.todo.head? ≠ some .reset)
    (h : step s = .next t) : KeepsMessage s t := by
  obtain hs | ⟨m, rest, htodo, hs⟩ := step_cases s
  · exact engineTurn_keepsMessage hb (hs.symm.trans h)
  · simp only [htodo, List.head?_cons, ne_eq, Option.some.injEq] at hr
    exact { hostTurn_keepsMessage (hs.symm.trans h) hb hr with }

theorem step_keepsResult {s t : State} (hb : s.busy = false) (hr : s.host.todo.head? ≠ some .reset)
    (hw : ∀ v, s.host.todo.head? ≠ some (.writeReg 0 v)) (h : step s = .next t) : KeepsResult s t := by
  obtain hs | ⟨m, rest, htodo, hs⟩ := step_cases s
  · cases (engineTurn_of_idle hb).symm.trans (hs.symm.trans h)
    exact .refl s
  · simp only [htodo, List.head?_cons, ne_eq, Option.some.injEq] at hr hw
    exact { hostTurn_keepsResult (hs.symm.trans h) hb hr hw with }

/-- Settles O48: a busy step keeps the message and an idle one the result, and a byte is read from the same memory. -/
theorem hostMayRelyOnHandshake : Obligations.HostMayRelyOnHandshake := by
  intro s t h hr
  refine ⟨fun hb => ?_, fun hb hw => ?_⟩
  · have k := step_keepsMessage hb hr h
    exact ⟨k.ctx, k.inlen, k.ivlen, State.byteAt_congr (sp := .inbuf) k.inbuf k.epoch,
      State.byteAt_congr (sp := .ivmem) k.ivmem k.epoch⟩
  · have k := step_keepsResult hb hr hw h
    exact ⟨k.err, k.done, k.outlen, State.byteAt_congr (sp := .outbuf) k.outbuf k.epoch⟩

/-! ## No state of the invariant is stuck (R66, R200) -/

/-- R66: once PAD or CHECK has sized the operation, every address its steps form lies inside its space. -/
theorem State.Inv.spacesHold {s : State} {i : Instr} (h : s.Inv) (o : s.OperationInv i) (hp : s.phase ≠ .pad) :
    s.spacesHold i.dir i.mode = true := by
  obtain ⟨-, -, hblk, -⟩ := platform_ranges h.platform
  have hB : s.blkSz ≤ 255 := hblk
  have hcap : s.outCap = s.cap + 510 := rfl
  have hoff : s.seedOff i.mode ≤ s.blkSz := by unfold State.seedOff; split <;> omega
  have hin := h.inlenBound
  cases hd : i.dir with
  | enc =>
    obtain ⟨hsize, hpad, htail⟩ := o.encSized hd hp
    exact (s.spacesHold_enc _).2 ⟨by omega, hin, by omega, by omega, htail⟩
  | dec =>
    obtain ⟨hsize, -⟩ := o.decSized hd
    exact (s.spacesHold_dec _).2 ⟨by omega, hin, by omega, by omega⟩

/-- R34, R36: in BLOCKS and in COMBINE the operands of a block step exist. -/
theorem State.Inv.blockHolds {s : State} {i : Instr} (h : s.Inv) (o : s.OperationInv i)
    (hp : s.phase = .blocks ∨ s.phase = .combine) : s.blockHolds i.dir i.mode = true := by
  have hpend : ∀ k ∈ s.pending, k < s.nblk := o.pendingBelow hp
  have hfb : usesFb i.dir i.mode = false ∨ s.fb.length = s.blkSz := by
    rcases hp with hp | hp
    · exact (Bool.eq_false_or_eq_true _).symm.imp_right (o.feedback hp)
    · obtain ⟨hd, hm⟩ := o.combinePhase hp
      exact .inl (by rw [hd, hm]; rfl)
  simp only [State.blockHolds, Bool.and_eq_true, Bool.or_eq_true, List.all_eq_true, decide_eq_true_eq,
    Bool.not_eq_true']
  exact ⟨⟨h.spacesHold o (Phase.ne_of_blocks_or_combine hp).2.2, hpend⟩, hfb⟩

/-- The engine step of the command in CTX goes on, in every phase. -/
theorem State.Inv.exec_goes_on {s : State} {i : Instr} (h : s.Inv) (hi : decode s.ctx = .ok i) :
    ∃ t, Machine.exec i s = .next t := by
  by_cases hidle : s.phase = .idle
  · exact ⟨_, exec_idle hidle⟩
  by_cases hcheck : s.phase = .check
  · exact ⟨_, exec_check hcheck⟩
  have o := h.operationOf hi hidle hcheck
  cases hp : s.phase with
  | idle => exact absurd hp hidle
  | check => exact absurd hp hcheck
  | pad => exact ⟨_, exec_pad hp (o.padPhase hp)⟩
  | init => exact ⟨_, exec_init hp (h.spacesHold o (by simp [hp]))⟩
  | blocks => exact ⟨_, exec_blocks hp (h.blockHolds o (.inl hp))⟩
  | combine =>
    obtain ⟨hd, hm⟩ := o.combinePhase hp
    have hs := h.blockHolds o (.inr hp)
    rw [hd, hm] at hs
    exact ⟨_, exec_combine hp hd hm hs⟩
  | unpad =>
    have hd := o.unpadPhase hp
    have hs := h.spacesHold o (by simp [hp])
    rw [hd] at hs
    exact ⟨_, exec_unpad hp hd hs⟩

/-- R97: an illegal word is still in CHECK. -/
theorem State.Inv.phase_of_illegal {s : State} {e : DecodeError} (h : s.Inv) (hb : s.busy = true)
    (he : decode s.ctx = .error e) : s.phase = .check := by
  by_contra hcheck
  obtain ⟨i, hi, -⟩ := h.operation (fun hidle => by simp [h.idleIff.1 hidle] at hb) hcheck
  cases he.symm.trans hi

theorem State.Inv.engineTurn_goes_on {s : State} (h : s.Inv) : ∃ t, Machine.engineTurn s = .next t := by
  by_cases hb : s.busy = true
  · cases hd : decode s.ctx with
    | ok i =>
      rw [engineTurn_of_decoded hb hd]
      exact h.exec_goes_on hd
    | error e =>
      refine ⟨s.raise .configuration, ?_⟩
      rw [engineTurn_of_illegal hb hd]
      simp [State.illegalStep, h.phase_of_illegal hb hd]
  · exact ⟨s, engineTurn_of_idle (by simpa using hb)⟩

/-- A move of the host or the platform goes on, except for a change of cipher that R260, U4 or U8 forbids. -/
theorem State.Inv.hostTurn_goes_on {s : State} (h : s.Inv) (m : HostMove) :
    (∃ t, Machine.hostTurn m s = .next t) ∨
    (∃ c, m = .attach c ∧ (s.busy = true ∨ c.all Cipher.wellFormed = false)) ∨
    (∃ f, (m = .setEncryptionKey f ∨ m = .setDecryptionKey f) ∧ s.busy = true) := by
  cases m with
  | engine => exact .inl h.engineTurn_goes_on
  | attach c =>
    by_cases hb : s.busy = true
    · exact .inr (.inl ⟨c, rfl, .inl hb⟩)
    by_cases hc : c.all Cipher.wellFormed = true
    · exact .inl ⟨_, (if_neg hb).trans (if_pos hc)⟩
    · exact .inr (.inl ⟨c, rfl, .inr (by simpa using hc)⟩)
  | setEncryptionKey f =>
    by_cases hb : s.busy = true
    · exact .inr (.inr ⟨f, .inl rfl, hb⟩)
    · exact .inl ⟨_, if_neg hb⟩
  | setDecryptionKey f =>
    by_cases hb : s.busy = true
    · exact .inr (.inr ⟨f, .inr rfl, hb⟩)
    · exact .inl ⟨_, if_neg hb⟩
  | readReg _ | writeReg _ _ | readByte _ _ | writeByte _ _ _ | wait | reset => exact .inl ⟨_, rfl⟩

/-- Settles O54: the operands of an engine step exist in every phase, and of the moves only a change of cipher is refused. -/
theorem invariantStatesGoOn : Obligations.InvariantStatesGoOn := by
  intro s h
  obtain hs | ⟨m, rest, htodo, hs⟩ := step_cases s <;> rw [hs]
  · exact .inl h.engineTurn_goes_on
  · simp only [htodo, List.head?_cons, Option.some.injEq]
    exact State.Inv.hostTurn_goes_on (h.withAgents _ s.free) m

end Sys2Proof.Machine
end

section
/-!
PROOFS. The encoding family: the four fields of a word as numbers, the codes of the tags, decoder and encoder as inverses of
each other, which words are legal, and that no engine step reads OPT.
-/

namespace Sys2Proof.Machine

/-! ## The fields of a word, as numbers (R90) -/

theorem opcField_toNat (w : Word) : (opcField w).toNat = w.toNat / 4096 := by
  have := w.isLt
  simp only [opcField, BitVec.extractLsb'_toNat, Nat.shiftRight_eq_div_pow]
  omega

theorem optField_toNat (w : Word) : (optField w).toNat = w.toNat / 256 % 16 := by
  simp [optField, Nat.shiftRight_eq_div_pow]

theorem modeField_toNat (w : Word) : (modeField w).toNat = w.toNat / 16 % 16 := by
  simp [modeField, Nat.shiftRight_eq_div_pow]

theorem padField_toNat (w : Word) : (padField w).toNat = w.toNat % 16 := by
  simp [padField]

/-- R96: a word as the number its four fields make. -/
theorem word_toNat (w : Word) : w.toNat =
    (opcField w).toNat * 4096 + (optField w).toNat * 256 + (modeField w).toNat * 16 + (padField w).toNat := by
  rw [opcField_toNat, optField_toNat, modeField_toNat, padField_toNat]
  omega

/-! ## The fields of an encoded command (R90, R96) -/

section fields
variable (i : Instr)

@[simp] theorem opcField_encode : opcField (encode i) = i.dir.code := by
  unfold opcField encode
  rw [BitVec.extractLsb'_append_eq_of_le (by decide), BitVec.extractLsb'_append_eq_of_le (by decide)]
  exact BitVec.extractLsb'_append_eq_left

@[simp] theorem optField_encode : optField (encode i) = i.opt := by
  unfold optField encode
  rw [BitVec.extractLsb'_append_eq_of_le (by decide), BitVec.extractLsb'_append_eq_of_le (by decide)]
  exact BitVec.extractLsb'_append_eq_right

@[simp] theorem modeField_encode : modeField (encode i) = i.mode.code := by
  unfold modeField encode
  rw [BitVec.extractLsb'_append_eq_of_le (by decide)]
  exact BitVec.extractLsb'_append_eq_right

@[simp] theorem padField_encode : padField (encode i) = i.pad.code :=
  BitVec.extractLsb'_append_eq_right

end fields

/-! ## Decoder and encoder (R91 to R93, R99) -/

@[simp] theorem dirOf_dirCode (d : Dir) : dirOf d.code = some d := by cases d <;> rfl

@[simp] theorem modeOf_modeCode (m : Mode) : modeOf m.code = some m := by cases m <;> rfl

@[simp] theorem padOf_padCode (p : PadScheme) : padOf p.code = some p := by cases p <;> rfl

/-- R96: a command is its operation, its mode, its OPT and its PAD. -/
@[simp] theorem ofTags_tags (i : Instr) : Instr.ofTags i.dir i.mode i.opt i.pad = i := by cases i <;> rfl

/-- Settles O1: the decoder reads back the four fields that the encoder put together, and each code is its tag's. -/
theorem decodeEncodeRoundTrip : Obligations.DecodeEncodeRoundTrip := by
  intro i
  simp only [decode, opcField_encode, optField_encode, modeField_encode, padField_encode, dirOf_dirCode,
    modeOf_modeCode, padOf_padCode, ofTags_tags]

theorem encode_toNat (i : Instr) : (encode i).toNat =
    i.dir.code.toNat * 4096 + i.opt.toNat * 256 + i.mode.code.toNat * 16 + i.pad.code.toNat := by
  rw [word_toNat, opcField_encode, optField_encode, modeField_encode, padField_encode]

/-- Settles O2: the word is the command's own, whose fields hold the numbers of R91 to R93. -/
theorem encodeDecodeInverse : Obligations.EncodeDecodeInverse := by
  intro w i h
  obtain rfl := encode_of_decode h
  have hdir : i.dir.code.toNat = (match i.dir with | .enc => 1 | .dec => 2) := by cases i.dir <;> rfl
  have hmode : i.mode.code.toNat =
      (match i.mode with | .ecb => 0 | .cbc => 1 | .pcbc => 2 | .cfb => 3 | .ofb => 4 | .ctr => 5 | .rd => 6) := by
    cases i.mode <;> rfl
  have hpad : i.pad.code.toNat =
      (match i.pad with | .zeros => 0 | .pkcs7 => 1 | .ansix923 => 2 | .iso10126 => 3) := by cases i.pad <;> rfl
  refine ⟨rfl, ?_⟩
  rw [encode_toNat, hdir, hmode]
  exact congrArg (_ + ·) hpad

/-! ## Which words are legal (R97) -/

theorem dirOf_isSome_iff : ∀ f : BitVec 4, (dirOf f).isSome = true ↔ f.toNat = 1 ∨ f.toNat = 2 := by decide

theorem modeOf_isSome_iff : ∀ f : BitVec 4, (modeOf f).isSome = true ↔ f.toNat ≤ 6 := by decide

theorem padOf_isSome_iff : ∀ f : BitVec 4, (padOf f).isSome = true ↔ f.toNat ≤ 3 := by decide

/-- R99: a word decodes when each of its three tag fields names a tag. -/
theorem decode_ok_iff (w : Word) : (∃ i, decode w = .ok i) ↔
    (dirOf (opcField w)).isSome = true ∧ (modeOf (modeField w)).isSome = true ∧ (padOf (padField w)).isSome = true := by
  unfold decode
  split <;> simp [*]

/-- Settles O3: each field names a tag exactly within its range, and the fields are the word's nibbles. -/
theorem decodeRefusesExactlyIllegalWords : Obligations.DecodeRefusesExactlyIllegalWords := by
  intro w
  rw [decode_ok_iff, dirOf_isSome_iff, modeOf_isSome_iff, padOf_isSome_iff, opcField_toNat, modeField_toNat,
    padField_toNat]

/-- R97: the legal words are the ones that decode. -/
theorem legalWord_iff_decodes (w : Word) : legalWord w = true ↔ ∃ i, decode w = .ok i := by
  have := w.isLt
  rw [decodeRefusesExactlyIllegalWords]
  simp only [legalWord, Bool.and_eq_true, Bool.or_eq_true, beq_iff_eq, decide_eq_true_eq, BitVec.toNat_ushiftRight,
    Nat.shiftRight_eq_div_pow]
  omega

/-- Settles O4: the legal words are the encodings of their commands; each illegal one is refused at its first bad field. -/
theorem writtenWordsDecode : Obligations.WrittenWordsDecode :=
  ⟨decodeEncodeRoundTrip (.encEcb 0 .zeros), decodeEncodeRoundTrip (.encCbc 0 .pkcs7),
    decodeEncodeRoundTrip (.encPcbc 0 .ansix923), decodeEncodeRoundTrip (.encCfb 0 .iso10126),
    decodeEncodeRoundTrip (.decOfb 0 .pkcs7), decodeEncodeRoundTrip (.decCtr 0 .ansix923),
    decodeEncodeRoundTrip (.decRd 9 .iso10126), decodeEncodeRoundTrip (.encCbc 15 .pkcs7),
    by decide, by decide, by decide, by decide⟩

/-! ## No engine step reads OPT (R94) -/

/-- The block rule of a command is that of its operation and mode. -/
theorem ruleOf_ofTags (d : Dir) (m : Mode) (opt opt' : BitVec 4) (p p' : PadScheme) :
    ruleOf (Instr.ofTags d m opt p) = ruleOf (Instr.ofTags d m opt' p') := by
  cases d <;> cases m <;> rfl

theorem ruleOf_congr {i j : Instr} (hd : i.dir = j.dir) (hm : i.mode = j.mode) : ruleOf i = ruleOf j := by
  rw [← ofTags_tags i, ← ofTags_tags j, hd, hm]
  exact ruleOf_ofTags ..

/-- R200: outside IDLE the sequencer reads operation, mode and padding of the command, and no other part of its word. -/
theorem operate_congr {i j : Instr} {s : State} (rule : Nat → State → Option State) (hd : i.dir = j.dir)
    (hm : i.mode = j.mode) (hp : i.pad = j.pad) (hs : s.phase ≠ .idle) : operate i rule s = operate j rule s := by
  unfold operate
  rw [hd, hm, hp]
  split
  · next h => exact absurd h hs
  all_goals rfl

/-- Settles O42: a command's word decodes, so it is legal; the engine step is `operate` over the command's block rule, and
neither depends on OPT. -/
theorem optionsIgnored : Obligations.OptionsIgnored := by
  refine ⟨fun i => ⟨(legalWord_iff_decodes _).2 ⟨i, decodeEncodeRoundTrip i⟩, optField_encode i⟩, ?_⟩
  intro i j s hd hm hp hs
  rw [exec_eq_operate, exec_eq_operate, ruleOf_congr hd hm]
  exact operate_congr _ hd hm hp hs

end Sys2Proof.Machine
end

section
/-!
PROOFS. The padding family: the PAD step scheme by scheme, the UNPAD step, and what UNPAD makes of a padded message.
-/

namespace Sys2Proof.Machine

/-! ## The pad, and the PAD step (R120 to R124) -/

/-- R122 to R124: the counted schemes have one pad-count rule. -/
theorem padLen_of_counted {p : PadScheme} (hp : p ≠ .zeros) (b n : Nat) : padLen p b n = b - n % b := by
  cases p
  case zeros => exact absurd rfl hp
  all_goals rfl

/-- R122 to R124: the last pad byte of a counted scheme is PADLEN. -/
theorem padBytes_getElem?_last {p : PadScheme} (hp : p ≠ .zeros) {len : Nat} (hlen : 1 ≤ len) {drawn : ByteString}
    (hd : drawn.length = padDraws p len) : (padBytes p len drawn)[len - 1]? = some (BitVec.ofNat 8 len) := by
  cases p
  case zeros => exact absurd rfl hp
  case pkcs7 => exact List.getElem?_replicate_of_lt (by omega)
  case ansix923 => simp [padBytes]
  case iso10126 => simp [padBytes, ← (show drawn.length = len - 1 from hd)]

/-- R122 to R124: PADLEN, at most a block of 255 bytes, is a byte. -/
theorem toNat_padCount {len b : Nat} (hlen : len ≤ b) (hb : b ≤ 255) : (BitVec.ofNat 8 len).toNat = len :=
  (BitVec.toNat_ofNat ..).trans (Nat.mod_eq_of_lt (by omega))

section padStep
variable (s : State) (p : PadScheme)

@[simp] theorem State.padStep_padlen : (s.padStep p).padlen = padLen p s.blkSz s.inlen.toNat := rfl
@[simp] theorem State.padStep_inlen : (s.padStep p).inlen = s.inlen := rfl
@[simp] theorem State.padStep_blkSz : (s.padStep p).blkSz = s.blkSz := rfl

/-- R33: after PAD, NBLK blocks are the message and its pad. -/
theorem State.padStep_blocks (hb : 1 ≤ s.blkSz) :
    (s.padStep p).nblk * s.blkSz = s.inlen.toNat + (s.padStep p).padlen :=
  padLen_blocks p s.blkSz s.inlen.toNat hb

/-- R120: TAIL[0 .. PADLEN) is the pad of the scheme, over the bytes it draws. -/
theorem State.padStep_tail_getElem? (hb : 1 ≤ s.blkSz) {k : Nat} (hk : k < (s.padStep p).padlen) :
    (s.padStep p).tail[k]? =
      (padBytes p (s.padStep p).padlen (s.rndBytes (padDraws p (s.padStep p).padlen)))[k]? := by
  have hlen := padBytes_length p (s.padStep p).padlen _ (s.rndBytes_length _) (padLen_spec p s.blkSz _ hb).2.2
  exact List.getElem?_append_left (hlen.symm ▸ hk)

theorem State.padStep_padlen_le (hb : 1 ≤ s.blkSz) : (s.padStep p).padlen ≤ s.blkSz := (padLen_spec p _ _ hb).2.1

/-- R131: the pad of a counted scheme is never empty. -/
theorem State.one_le_padStep_padlen (hp : p ≠ .zeros) (hb : 1 ≤ s.blkSz) : 1 ≤ (s.padStep p).padlen :=
  (padLen_spec p _ _ hb).2.2 hp

/-- R120: the last TAIL byte that a counted scheme writes is PADLEN, which a byte holds. -/
theorem State.padStep_tail_last (hp : p ≠ .zeros) (hb : 1 ≤ s.blkSz) (hb' : s.blkSz ≤ 255) :
    ((s.padStep p).tail[(s.padStep p).padlen - 1]?.map BitVec.toNat) = some (s.padStep p).padlen := by
  have hpos := s.one_le_padStep_padlen p hp hb
  rw [s.padStep_tail_getElem? p hb (by omega), padBytes_getElem?_last hp hpos (s.rndBytes_length _), Option.map_some,
    toNat_padCount (s.padStep_padlen_le p hb) hb']

/-- R120: PAD of a scheme that draws nothing writes PADLEN, TAIL, NBLK and PHASE alone. -/
theorem State.padStep_frame (hp : p ≠ .iso10126) : s.padStep p = { s with
    padlen := (s.padStep p).padlen, nblk := (s.padStep p).nblk, phase := .init, tail := (s.padStep p).tail } := by
  cases p
  case iso10126 => exact absurd rfl hp
  all_goals rfl

end padStep

theorem State.rndBytes_getElem? (s : State) {n k : Nat} (hk : k < n) : (s.rndBytes n)[k]? = some (s.rndAt k) := by
  simp [State.rndBytes, hk]

/-- Settles O11: the pad of Zeros is PADLEN zero bytes, and nothing is drawn. -/
theorem padStepZeros : Obligations.PadStepZeros := by
  intro i s hd hp hph hb _
  refine ⟨s.padStep .zeros, hp ▸ exec_pad hph hd, rfl, s.padStep_blocks _ hb, rfl, fun k hk => ?_,
    s.padStep_frame _ nofun⟩
  rw [s.padStep_tail_getElem? _ hb hk]
  exact List.getElem?_replicate_of_lt hk

/-- Settles O12: the pad of PKCS7 is PADLEN bytes of that value, and nothing is drawn. -/
theorem padStepPkcs7 : Obligations.PadStepPkcs7 := by
  intro i s hd hp hph hb hb'
  have hle := s.padStep_padlen_le .pkcs7 hb
  refine ⟨s.padStep .pkcs7, hp ▸ exec_pad hph hd, rfl, s.one_le_padStep_padlen _ nofun hb, hle,
    s.padStep_blocks _ hb, rfl, fun k hk => ?_, s.padStep_frame _ nofun⟩
  rw [s.padStep_tail_getElem? _ hb hk, padBytes, List.getElem?_replicate_of_lt hk, Option.map_some,
    toNat_padCount hle hb']

/-- Settles O13: the pad of ANSIX923 is zero bytes before its count, and nothing is drawn. -/
theorem padStepAnsix923 : Obligations.PadStepAnsix923 := by
  intro i s hd hp hph hb hb'
  refine ⟨s.padStep .ansix923, hp ▸ exec_pad hph hd, rfl, s.one_le_padStep_padlen _ nofun hb,
    s.padStep_padlen_le _ hb, s.padStep_blocks _ hb, rfl, fun k hk => ?_, s.padStep_tail_last _ nofun hb hb',
    s.padStep_frame _ nofun⟩
  have hk' : k < (s.padStep .ansix923).padlen - 1 := by omega
  rw [s.padStep_tail_getElem? _ hb (by omega), padBytes, List.getElem?_append_left (by rwa [List.length_replicate]),
    List.getElem?_replicate_of_lt hk']

/-- Settles O14: the pad of ISO10126 is the bytes drawn before its count. -/
theorem padStepIso10126 : Obligations.PadStepIso10126 := by
  intro i s hd hp hph hb hb'
  refine ⟨s.padStep .iso10126, hp ▸ exec_pad hph hd, rfl, s.one_le_padStep_padlen _ nofun hb,
    s.padStep_padlen_le _ hb, s.padStep_blocks _ hb, rfl, fun k hk => ?_, s.padStep_tail_last _ nofun hb hb',
    s.rndAt_drop _, rfl, rfl⟩
  have hk' : k < padDraws .iso10126 (s.padStep .iso10126).padlen := Nat.lt_sub_of_add_lt hk
  rw [s.padStep_tail_getElem? _ hb (by omega), padBytes, List.getElem?_append_left (by rwa [State.rndBytes_length]),
    s.rndBytes_getElem? hk']

/-! ## The UNPAD step (R125 to R130) -/

/-- R127 to R129: the counted schemes have one validator. -/
theorem unpadLen_of_counted {p : PadScheme} (hp : p ≠ .zeros) (b n : Nat) (t : Nat → Byte) :
    unpadLen p b n t = stripCounted b n t := by
  cases p
  case zeros => exact absurd rfl hp
  all_goals rfl

/-- R130: the validator refuses an empty content, and a last byte that is no count from 1 to B. -/
theorem stripCounted_eq_none {b n : Nat} {t : Nat → Byte}
    (h : n = 0 ∨ (t (n - 1)).toNat = 0 ∨ b < (t (n - 1)).toNat) : stripCounted b n t = none := by
  unfold stripCounted
  split
  · rfl
  · next hn => exact if_pos (h.resolve_left hn)

/-- R127: the validator takes the count in the last byte off the content. -/
theorem stripCounted_eq_some {b n : Nat} {t : Nat → Byte}
    (h : ¬ (n = 0 ∨ (t (n - 1)).toNat = 0 ∨ b < (t (n - 1)).toNat)) :
    stripCounted b n t = some (n - (t (n - 1)).toNat) := by
  obtain ⟨hn, hp⟩ := not_or.1 h
  exact (if_neg hn).trans (if_neg hp)

theorem State.unpadStep_of_some {s : State} {p : PadScheme} {len : Nat}
    (h : unpadLen p s.blkSz (s.nblk * s.blkSz) (s.byteAt .outbuf) = some len) : s.unpadStep p = s.finish len := by
  simp [State.unpadStep, h]

theorem State.unpadStep_of_none {s : State} {p : PadScheme}
    (h : unpadLen p s.blkSz (s.nblk * s.blkSz) (s.byteAt .outbuf) = none) : s.unpadStep p = s.raise .padding := by
  simp [State.unpadStep, h]

/-- R126: UNPAD with Zeros never fails. -/
theorem State.unpadStep_zeros (s : State) :
    s.unpadStep .zeros = s.finish (stripZeros (s.byteAt .outbuf) (s.nblk * s.blkSz)) :=
  State.unpadStep_of_some rfl

theorem exec_unpad_of_spacesHold {i : Instr} {s : State} (hph : s.phase = .unpad) (hd : i.dir = .dec)
    (hs : s.spacesHold i.dir i.mode = true) : exec i s = .next (s.unpadStep i.pad) :=
  exec_unpad hph hd (hd ▸ hs)

/-- R27, R66: OUTLEN holds the length of a result that fits OUTBUF. -/
theorem State.finish_outlen_toNat {s : State} (hw : s.plat.wellFormed = true) {len : Nat} (h : len ≤ s.outCap) :
    (s.finish len).outlen.toNat = len := by
  obtain ⟨-, hcap, -⟩ := platform_ranges hw
  have hout : s.outCap = s.plat.cap + 510 := rfl
  exact (BitVec.toNat_ofNat ..).trans (Nat.mod_eq_of_lt (by omega))

/-- Settles O35: UNPAD with Zeros ends with the length `stripZeros` gives, which OUTLEN holds. -/
theorem unpadStepZeros : Obligations.UnpadStepZeros := by
  intro i s hd hp hph hs hw
  obtain ⟨hle, hlast, hzero⟩ := stripZeros_spec (s.byteAt .outbuf) (s.nblk * s.blkSz)
  have hlen := State.finish_outlen_toNat hw (hle.trans (State.result_fits hs).1)
  refine ⟨_, exec_unpad_of_spacesHold hph hd hs, ?_⟩
  rw [hp, s.unpadStep_zeros, hlen]
  exact ⟨hle, hlast, hzero, rfl⟩

/-- Settles O36: UNPAD with a counted scheme ends as its validator says. -/
theorem unpadStepCounted : Obligations.UnpadStepCounted := by
  intro i s hd hp hph hs hw n p
  rw [exec_unpad_of_spacesHold hph hd hs]
  have hu := unpadLen_of_counted hp s.blkSz n (s.byteAt .outbuf)
  refine ⟨fun h => ?_, fun h => ?_⟩
  · rw [State.unpadStep_of_none (hu.trans (stripCounted_eq_none h))]
    rfl
  · rw [State.unpadStep_of_some (hu.trans (stripCounted_eq_some h))]
    exact ⟨_, rfl, State.finish_outlen_toNat hw ((Nat.sub_le ..).trans (State.result_fits hs).1), rfl⟩

/-! ## Round trips (R131, R132) -/

/-- R67: a byte of the padded message inside the message. -/
theorem State.padded_of_lt {s : State} {a : Nat} (h : a < s.inlen.toNat) : s.padded a = s.byteAt .inbuf a := if_pos h

/-- R67: a byte of the padded message inside the pad. -/
theorem State.padded_of_tail {s : State} {a : Nat} {v : Byte} (h : s.inlen.toNat ≤ a)
    (hv : s.tail[a - s.inlen.toNat]? = some v) : s.padded a = v := by
  rw [State.padded, if_neg (by omega), List.getD, hv, Option.getD_some]

/-- R25: an attached cipher of a well-formed platform has a block size of at least 1. -/
theorem State.one_le_blkSz {s : State} (hw : s.plat.wellFormed = true) (hc : s.cbound = true) : 1 ≤ s.blkSz :=
  (platform_ranges hw).2.2.2 hc

/-- R131: the padded message of a counted scheme ends in PADLEN. -/
theorem State.padStep_padded_last {s : State} {p : PadScheme} (hp : p ≠ .zeros) (hb : 1 ≤ s.blkSz)
    (hb' : s.blkSz ≤ 255) :
    ((s.padStep p).padded ((s.padStep p).nblk * s.blkSz - 1)).toNat = (s.padStep p).padlen := by
  obtain ⟨v, hv, hcount⟩ := Option.map_eq_some_iff.1 (s.padStep_tail_last p hp hb hb')
  have hpos := s.one_le_padStep_padlen p hp hb
  rw [s.padStep_blocks p hb, State.padded_of_tail (v := v), hcount]
  · rw [s.padStep_inlen]
    omega
  · rwa [s.padStep_inlen, show s.inlen.toNat + (s.padStep p).padlen - 1 - s.inlen.toNat =
      (s.padStep p).padlen - 1 by omega]

/-- R131: the padded message of a counted scheme has one block more than the message has whole blocks. -/
theorem State.padStep_nblk_of_counted {s : State} {p : PadScheme} (hp : p ≠ .zeros) (hb : 1 ≤ s.blkSz) :
    (s.padStep p).nblk = s.inlen.toNat / s.blkSz + 1 := by
  have hmod := Nat.mod_lt s.inlen.toNat hb
  have hdiv := Nat.div_add_mod s.inlen.toNat s.blkSz
  refine Nat.eq_of_mul_eq_mul_right hb ((s.padStep_blocks p hb).trans ?_)
  rw [s.padStep_padlen, padLen_of_counted hp, Nat.succ_mul, Nat.mul_comm]
  omega

/-- Settles O37: the last padded byte is PADLEN, which the validator takes off. -/
theorem countedPaddingRoundTrip : Obligations.CountedPaddingRoundTrip := by
  intro i j s t u hd hp hph ht hjd hjp hup hus huw hplat hc hnblk hbytes
  cases (exec_pad hph hd).symm.trans ht
  have hw : s.plat.wellFormed = true := hplat ▸ huw
  have hb := State.one_le_blkSz hw hc
  have hblk : u.blkSz = s.blkSz := by simp [State.blkSz, hplat]
  have hle := s.padStep_padlen_le i.pad hb
  have hpos := s.one_le_padStep_padlen i.pad hp hb
  have hn := s.padStep_blocks i.pad hb
  have hlast := State.padStep_padded_last hp hb (platform_ranges hw).2.2.1
  refine ⟨padLen_of_counted hp .., hpos, hle, State.padStep_nblk_of_counted hp hb, hn, hlast, ?_⟩
  have hcount : (u.byteAt .outbuf (u.nblk * u.blkSz - 1)).toNat = (s.padStep i.pad).padlen := by
    rw [hnblk, hblk, hbytes _ (show _ < (s.padStep i.pad).nblk * s.blkSz by omega), hlast]
  have hstrip := stripCounted_eq_some (b := u.blkSz) (n := u.nblk * u.blkSz) (t := u.byteAt .outbuf)
    (by rw [hcount, hblk, hnblk]; omega)
  rw [exec_unpad_of_spacesHold hup hjd hus,
    State.unpadStep_of_some ((unpadLen_of_counted hjp ..).trans hstrip), hcount, hblk, hnblk, hn, Nat.add_sub_cancel]
  exact ⟨_, rfl, rfl, rfl, by simp [State.finish]⟩

/-- R132: with Zeros the padded message is the message in as few whole blocks as hold it. -/
theorem State.padStep_nblk_of_zeros {s : State} (hb : 1 ≤ s.blkSz) :
    (s.padStep .zeros).nblk = (s.inlen.toNat + s.blkSz - 1) / s.blkSz := by
  have hn := s.padStep_blocks .zeros hb
  have hlt : (s.padStep .zeros).padlen < s.blkSz := by
    rw [s.padStep_padlen]
    simp only [padLen]
    split <;> omega
  refine (Nat.div_eq_of_lt_le ?_ ?_).symm
  · omega
  · rw [Nat.succ_mul]
    omega

/-- R132: the pad of Zeros is zero bytes. -/
theorem State.padStep_padded_zeros {s : State} (hb : 1 ≤ s.blkSz) {a : Nat} (ha : s.inlen.toNat ≤ a)
    (ha' : a < (s.padStep .zeros).nblk * s.blkSz) : (s.padStep .zeros).padded a = 0 := by
  have hn := s.padStep_blocks .zeros hb
  have hk : a - s.inlen.toNat < (s.padStep .zeros).padlen := by omega
  refine State.padded_of_tail ha ?_
  rw [s.padStep_inlen, s.padStep_tail_getElem? .zeros hb hk]
  exact List.getElem?_replicate_of_lt hk

/-- R126: what is stripped depends on the content alone. -/
theorem stripZeros_congr {t m : Nat → Byte} {n : Nat} (h : ∀ a, a < n → t a = m a) :
    stripZeros t n = stripZeros m n := by
  induction n with
  | zero => rfl
  | succ n ih => simp only [stripZeros, h n (Nat.lt_succ_self n), ih fun a ha => h a (Nat.lt_succ_of_lt ha)]

/-- R132: zero bytes after a content are stripped with those that end it. -/
theorem stripZeros_append_zeros {t : Nat → Byte} {n k : Nat} (h : ∀ a, n ≤ a → a < n + k → t a = 0) :
    stripZeros t (n + k) = stripZeros t n := by
  induction k with
  | zero => rfl
  | succ k ih =>
    rw [← Nat.add_assoc, stripZeros, if_pos (h _ (Nat.le_add_right ..) (by omega))]
    exact ih fun a ha ha' => h a ha (by omega)

/-- R132: nothing is stripped exactly of a content that is empty or does not end in 00. -/
theorem stripZeros_eq_self_iff {t : Nat → Byte} {n : Nat} : stripZeros t n = n ↔ n = 0 ∨ t (n - 1) ≠ 0 := by
  obtain ⟨hle, hlast, hzero⟩ := stripZeros_spec t n
  refine ⟨fun h => h ▸ hlast, ?_⟩
  rintro (rfl | h)
  · exact Nat.le_zero.1 hle
  · by_contra hne
    exact h (hzero _ (by omega) (by omega))

/-- Settles O38: UNPAD strips the zero bytes of the pad, and with them those at the end of the message. -/
theorem zerosPaddingRoundTrip : Obligations.ZerosPaddingRoundTrip := by
  intro i j s t u hd hp hph ht hjd hjp hup hus huw hplat hc hnblk hbytes
  rw [exec_pad hph hd, hp] at ht
  cases ht
  have hb := State.one_le_blkSz (hplat ▸ huw) hc
  have hblk : u.blkSz = s.blkSz := by simp [State.blkSz, hplat]
  have hn : u.nblk * u.blkSz = s.inlen.toNat + (s.padStep .zeros).padlen := by
    rw [hnblk, hblk, s.padStep_blocks .zeros hb]
  have hbytes : ∀ a, a < u.nblk * u.blkSz → u.byteAt .outbuf a = (s.padStep .zeros).padded a := by
    rw [hnblk, hblk]
    exact hbytes
  have hstrip : stripZeros (u.byteAt .outbuf) (u.nblk * u.blkSz) = stripZeros (s.byteAt .inbuf) s.inlen.toNat := by
    rw [hn, stripZeros_append_zeros]
    · exact stripZeros_congr fun a ha => (hbytes a (by omega)).trans (State.padded_of_lt ha)
    · intro a ha ha'
      rw [hbytes a (by omega)]
      exact State.padStep_padded_zeros hb ha (by rw [s.padStep_blocks .zeros hb]; exact ha')
  obtain ⟨hle, hlast, hzero⟩ := stripZeros_spec (s.byteAt .inbuf) s.inlen.toNat
  have hlen := State.finish_outlen_toNat (s := u) huw (len := stripZeros (s.byteAt .inbuf) s.inlen.toNat)
    (hle.trans ((by omega : _ ≤ u.nblk * u.blkSz).trans (State.result_fits hus).1))
  refine ⟨State.padStep_nblk_of_zeros hb, _, exec_unpad_of_spacesHold hup hjd hus, ?_⟩
  rw [hjp, u.unpadStep_zeros, hstrip, hlen]
  refine ⟨rfl, rfl, BitVec.toNat_eq.trans ?_, hle, hlast, hzero⟩
  rw [hlen]
  exact stripZeros_eq_self_iff

end Sys2Proof.Machine
end

section
/-!
PROOFS. Whole operations: the engine at work on a command, BLOCKS and COMBINE as one induction over PENDING, an ENC
and a DEC operation from CHECK on in the closed forms of R205.
-/

namespace Sys2Proof.Machine

/-! ## The engine at work (R74, R77) -/

theorem GoesOn.trans {s t u : State} (h : GoesOn s t) (k : GoesOn t u) : GoesOn s u :=
  ⟨h.toKeepsInputs.trans k.toKeepsInputs, k.busy.trans h.busy, k.done.trans h.done, k.err.trans h.err,
    k.outlen.trans h.outlen⟩

/-- The engine is at work on the command `i`, in a state of the invariant, and the host has no move pending. -/
structure Running (i : Instr) (s : State) : Prop where
  inv : s.Inv
  word : s.ctx = encode i
  alone : s.host.todo = []
  busy : s.busy = true

/-- The engine takes `n` steps of the command `i` from `s` to `t`, and the operation does not end. -/
structure Advances (i : Instr) (n : Nat) (s t : State) : Prop where
  run : runs n s t
  running : Running i t
  goesOn : GoesOn s t

section running
variable {i : Instr} {s t u : State}

theorem AtStart.running (h : AtStart i s) : Running i s :=
  ⟨h.inv, h.word, h.alone, by simpa using mt h.inv.idleIff.2 (by simp [h.check])⟩

theorem Running.decodes (h : Running i s) : decode s.ctx = .ok i := h.word ▸ decodeEncodeRoundTrip i

theorem Running.phase_ne_idle (h : Running i s) : s.phase ≠ .idle := fun hp => by
  simpa [h.busy] using h.inv.idleIff.1 hp

theorem Running.operation (h : Running i s) (hp : s.phase ≠ .check) : s.OperationInv i :=
  h.inv.operationOf h.decodes h.phase_ne_idle hp

/-- R77: the step is the command's engine step. -/
theorem Running.step_eq (h : Running i s) : step s = exec i s :=
  (step_of_no_move h.alone).trans (engineTurn_of_decoded h.busy h.decodes)

theorem Running.goesOn (h : Running i s) (ht : exec i s = .next t) (g : GoesOn s t) : Running i t :=
  ⟨h.inv.exec h.decodes ht, g.ctx.trans h.word, g.host ▸ h.alone, g.busy.trans h.busy⟩

theorem Running.advances (h : Running i s) (ht : exec i s = .next t) (g : GoesOn s t) : Advances i 1 s t :=
  ⟨runs_succ (h.step_eq.trans ht) (runs_zero t), h.goesOn ht g, g⟩

theorem Advances.refl (h : Running i s) : Advances i 0 s s :=
  ⟨runs_zero s, h, .sequenced s s.phase s.pending s.nblk s.padlen⟩

theorem Advances.trans {n m : Nat} (a : Advances i n s u) (b : Advances i m u t) : Advances i (n + m) s t :=
  ⟨runs_trans a.run b.run, b.running, a.goesOn.trans b.goesOn⟩

theorem Running.choose (h : Running i s) (d : Dir) (m : Mode) : Running i (s.choose d m) :=
  ⟨h.inv.choose d m, by simpa using h.word, by simpa using h.alone, by simpa using h.busy⟩

end running

/-! ## What the rest of an operation reads is kept -/

/-- The operation goes on from `s` to `t`, and its size and its pad are kept: all that a block rule reads but FB and
OUTBUF. -/
structure KeepsOperation (s t : State) : Prop extends GoesOn s t, KeepsSize s t

theorem KeepsOperation.refl (s : State) : KeepsOperation s s :=
  ⟨.sequenced s s.phase s.pending s.nblk s.padlen, rfl, rfl, rfl⟩

theorem KeepsOperation.trans {s t u : State} (h : KeepsOperation s t) (k : KeepsOperation t u) : KeepsOperation s u :=
  ⟨h.toGoesOn.trans k.toGoesOn, k.nblk.trans h.nblk, k.padlen.trans h.padlen, k.tail.trans h.tail⟩

/-- Two reads see the same bytes where the spaces agree. -/
theorem State.memRead_congr {s t : State} {sp sp' : Space} {a a' n : Nat}
    (h : ∀ x, x < n → s.byteAt sp (a + x) = t.byteAt sp' (a' + x)) : s.memRead sp a n = t.memRead sp' a' n :=
  List.map_congr_left fun x hx => h x (List.mem_range.1 hx)

section keeps
variable {s t : State}

theorem KeepsInputs.blkSz (h : KeepsInputs s t) : t.blkSz = s.blkSz := by simp [State.blkSz, h.plat]

theorem KeepsInputs.seedOff (h : KeepsInputs s t) (m : Mode) : t.seedOff m = s.seedOff m := by
  simp [State.seedOff, h.blkSz]

theorem KeepsInputs.outAddr (h : KeepsInputs s t) (d : Dir) (m : Mode) (k : Nat) :
    t.outAddr d m k = s.outAddr d m k := by
  cases d <;> simp [State.outAddr, h.blkSz, h.seedOff]

theorem KeepsInputs.byteAt_inbuf (h : KeepsInputs s t) (a : Nat) : t.byteAt .inbuf a = s.byteAt .inbuf a :=
  State.byteAt_congr (sp := .inbuf) h.inbuf h.epoch a

theorem KeepsInputs.iv (h : KeepsInputs s t) : t.iv = s.iv := by
  rw [State.iv, State.iv, h.blkSz]
  exact State.memRead_congr fun x _ => State.byteAt_congr (sp := .ivmem) h.ivmem h.epoch _

theorem KeepsInputs.cBlk (h : KeepsInputs s t) (m : Mode) (k : Nat) : t.cBlk m k = s.cBlk m k := by
  rw [State.cBlk, State.cBlk, h.blkSz, h.seedOff]
  exact State.memRead_congr fun x _ => h.byteAt_inbuf _

theorem KeepsInputs.ctr (h : KeepsInputs s t) (k : Nat) : t.ctr k = s.ctr k := by
  rw [State.ctr, State.ctr, h.iv, h.plat]

theorem KeepsInputs.cipherEnc (h : KeepsInputs s t) (x : ByteString) : t.cipherEnc x = s.cipherEnc x :=
  State.cipherEnc_congr h.plat x

theorem KeepsInputs.cipherDec (h : KeepsInputs s t) (x : ByteString) : t.cipherDec x = s.cipherDec x :=
  State.cipherDec_congr h.plat x

theorem KeepsOperation.pBlk (h : KeepsOperation s t) (k : Nat) : t.pBlk k = s.pBlk k := by
  have hp : ∀ a, t.padded a = s.padded a := fun a => by
    rw [State.padded, State.padded, h.inlen, h.tail, h.toKeepsInputs.byteAt_inbuf]
  simp [State.pBlk, h.toKeepsInputs.blkSz, hp]

theorem State.choose_keepsOperation (s : State) (d : Dir) (m : Mode) : KeepsOperation s (s.choose d m) := by
  unfold State.choose
  split
  · exact ⟨⟨⟨rfl, rfl, rfl, rfl, rfl, rfl, rfl, rfl⟩, rfl, rfl, rfl, rfl⟩, rfl, rfl, rfl⟩
  · exact .refl s

theorem State.writeBlock_keepsOperation (s : State) (d : Dir) (m : Mode) (k : Nat) (v fb : ByteString) :
    KeepsOperation s (s.writeBlock d m k v fb) :=
  ⟨s.writeBlock_goesOn d m k v fb, rfl, rfl, rfl⟩

theorem State.initStep_keepsOperation (s : State) (d : Dir) (m : Mode) : KeepsOperation s (s.initStep d m) :=
  ⟨s.initStep_goesOn d m, { s.loadFb_keepsSize d m with }⟩

end keeps

/-! ## The result, block by block (R69) -/

/-- R69: block `k` of the result, as OUTBUF holds it. -/
def State.outBlk (s : State) (d : Dir) (m : Mode) (k : Nat) : ByteString :=
  s.memRead .outbuf (s.outAddr d m k) s.blkSz

@[simp] theorem State.outBlk_length (s : State) (d : Dir) (m : Mode) (k : Nat) :
    (s.outBlk d m k).length = s.blkSz := s.memRead_length ..

/-- R69: the blocks of the result lie one after the other. -/
theorem State.outAddr_eq (s : State) (d : Dir) (m : Mode) (k : Nat) :
    s.outAddr d m k = s.outAddr d m 0 + k * s.blkSz := by
  cases d <;> simp [State.outAddr]

/-- A byte of one block is no byte of another. -/
theorem block_eq_of_mem {b j k x : Nat} (hx : x < b) (h : k * b ≤ j * b + x) (h' : j * b + x < k * b + b) : j = k := by
  have hj : (j * b + x) / b = j := by rw [Nat.mul_comm, Nat.mul_add_div (by omega), Nat.div_eq_of_lt hx, Nat.add_zero]
  exact hj.symm.trans (Nat.div_eq_of_lt_le h (by rwa [Nat.succ_mul]))

/-- A read of the bytes just written. -/
theorem State.memRead_writeOut (s : State) (a : Nat) (bs : ByteString) :
    (s.writeOut a bs).memRead .outbuf a bs.length = bs := by
  refine List.ext_getElem (State.memRead_length ..) fun x h1 h2 => ?_
  simp [State.memRead, State.byteAt_writeOut, h2]

/-- R69: a block written is the result's block of its index, and the others are as they were. -/
theorem State.outBlk_writeBlock (s : State) {d : Dir} {m : Mode} {k : Nat} {v fb : ByteString}
    (hv : v.length = s.blkSz) (j : Nat) :
    (s.writeBlock d m k v fb).outBlk d m j = if j = k then v else s.outBlk d m j := by
  split
  · next hj =>
    change (s.writeOut (s.outAddr d m k) v).memRead .outbuf (s.outAddr d m j) s.blkSz = v
    rw [hj, ← hv, State.memRead_writeOut]
  · next hj =>
    refine State.memRead_congr fun x hx => State.byteAt_writeBlock_outside hv fun h => hj ?_
    change x < s.blkSz at hx
    change _ ≤ s.outAddr d m j + x ∧ s.outAddr d m j + x < _ at h
    rw [s.outAddr_eq d m j, s.outAddr_eq d m k] at h
    exact block_eq_of_mem hx (by omega) (by omega)

/-- PENDING is a set, so that it loses one index when a pending one is retired. -/
theorem State.Inv.length_retire {s : State} (h : s.Inv) {k : Nat} (hk : k ∈ s.pending) :
    (s.retire k).pending.length + 1 = s.pending.length := by
  have hnodup : s.pending.Nodup := h.pendingForm.imp Nat.ne_of_lt
  have herase : (s.retire k).pending = s.pending.erase k := by
    rw [hnodup.erase_eq_filter]
    exact List.filter_congr fun j _ => by by_cases hj : j = k <;> simp [hj]
  rw [herase, List.length_erase_of_mem hk]
  have := List.length_pos_of_mem hk
  omega

/-! ## BLOCKS and COMBINE -/

/-- The engine in BLOCKS or COMBINE since the state `s` in which the phase began. Block `k` of the result is `value k`
once `k` is no longer pending, and is as it was before; where the block rule reads FB, the indices are taken in rising
order and FB holds `feedback k` before block `k`. -/
structure BlockPhase (i : Instr) (value feedback : Nat → ByteString) (s v : State) : Prop
    extends KeepsOperation s v where
  running : Running i v
  phase : v.phase = s.phase
  blocks : ∀ k, k < s.nblk →
    v.outBlk i.dir i.mode k = if k ∈ v.pending then s.outBlk i.dir i.mode k else value k
  seed : ∀ a, a < s.outAddr i.dir i.mode 0 → v.byteAt .outbuf a = s.byteAt .outbuf a
  inOrder : usesFb i.dir i.mode = true →
    ∃ k, v.fb = feedback k ∧ ∀ j, j ∈ v.pending ↔ k ≤ j ∧ j < s.nblk

/-- In every state of the phase that began in `s`, the cipher answers the block rule of `i`, which writes `value k` and
leaves `feedback (k + 1)` in FB where it reads FB. -/
def RuleGives (i : Instr) (value feedback : Nat → ByteString) (s : State) : Prop :=
  ∀ v k, KeepsOperation s v → k < s.nblk →
    (usesFb i.dir i.mode = true → v.fb = feedback k ∧ v.fb.length = v.blkSz) →
    ∃ y, blockRequest i k v = some y ∧ blockValue i k v y = value k ∧
      (usesFb i.dir i.mode = true → blockFb i k v y = feedback (k + 1))

section blockPhase
variable {i : Instr} {value feedback : Nat → ByteString} {s v : State}

/-- R199, R201: a phase begins with every index below NBLK pending. -/
theorem BlockPhase.start (h : Running i s) (hp : s.pending = List.range s.nblk)
    (hf : usesFb i.dir i.mode = true → s.fb = feedback 0) : BlockPhase i value feedback s s where
  toKeepsOperation := .refl s
  running := h
  phase := rfl
  blocks := fun k hk => by simp [hp, hk]
  seed := fun _ _ => rfl
  inOrder := fun hu => ⟨0, hf hu, by simp [hp]⟩

theorem State.outBlk_choose (s : State) (d : Dir) (m : Mode) (k : Nat) :
    (s.choose d m).outBlk d m k = s.outBlk d m k := by
  unfold State.choose
  split <;> rfl

/-- The choice of R203 is no part of the phase. -/
theorem BlockPhase.choose (h : BlockPhase i value feedback s v) :
    BlockPhase i value feedback s (v.choose i.dir i.mode) where
  toKeepsOperation := h.toKeepsOperation.trans (v.choose_keepsOperation _ _)
  running := h.running.choose _ _
  phase := by simpa using h.phase
  blocks := by simpa [State.outBlk_choose] using h.blocks
  seed := fun a ha => (v.byteAt_choose _ _ .outbuf a).trans (h.seed a ha)
  inOrder := by simpa using h.inOrder

/-- A pending index is below NBLK (R34). -/
theorem BlockPhase.lt_nblk (h : BlockPhase i value feedback s v) (hp : s.phase = .blocks ∨ s.phase = .combine) {k : Nat}
    (hk : k ∈ v.pending) : k < s.nblk := by
  rw [← h.phase] at hp
  exact h.nblk ▸ (h.running.operation (Phase.ne_of_blocks_or_combine hp).2.1).pendingBelow hp k hk

/-- Where the block rule reads FB, the least pending index is the one FB is for. -/
theorem BlockPhase.fb_eq (h : BlockPhase i value feedback s v) (hu : usesFb i.dir i.mode = true) {k : Nat}
    (hk : k ∈ v.pending) (hle : ∀ j ∈ v.pending, k ≤ j) :
    v.fb = feedback k ∧ ∀ j, j ∈ v.pending ↔ k ≤ j ∧ j < s.nblk := by
  obtain ⟨n, hfb, hmem⟩ := h.inOrder hu
  obtain ⟨hnk, hk'⟩ := (hmem k).1 hk
  obtain rfl : n = k := Nat.le_antisymm hnk (hle n ((hmem n).2 ⟨Nat.le_refl n, by omega⟩))
  exact ⟨hfb, hmem⟩

/-- The block of a pending index is written: the phase goes on with one index less. -/
theorem BlockPhase.writeBlock (h : BlockPhase i value feedback s v) {k : Nat} {fb : ByteString} (hk : k ∈ v.pending)
    (hlen : (value k).length = v.blkSz) (hr : Running i (v.writeBlock i.dir i.mode k (value k) fb))
    (hf : usesFb i.dir i.mode = true → (∀ j ∈ v.pending, k ≤ j) ∧ fb = feedback (k + 1)) :
    BlockPhase i value feedback s (v.writeBlock i.dir i.mode k (value k) fb) where
  toKeepsOperation := h.toKeepsOperation.trans (v.writeBlock_keepsOperation ..)
  running := hr
  phase := h.phase
  blocks := fun j hj => by
    have hmem : j ∈ (v.writeBlock i.dir i.mode k (value k) fb).pending ↔ j ∈ v.pending ∧ j ≠ k := by
      simp [State.writeBlock]
    rw [State.outBlk_writeBlock v hlen, h.blocks j hj, if_congr hmem rfl rfl]
    by_cases hjk : j = k <;> simp [hjk]
  seed := fun a ha => by
    refine (State.byteAt_writeBlock_outside hlen ?_).trans (h.seed a ha)
    rw [v.outAddr_eq, h.outAddr]
    omega
  inOrder := fun hu => by
    obtain ⟨hle, hfb⟩ := hf hu
    obtain ⟨-, hmem⟩ := h.fb_eq hu hk hle
    refine ⟨k + 1, hfb, fun j => ?_⟩
    simp only [State.writeBlock, State.retire_pending, List.mem_filter, State.setFb_pending, State.putBlk_pending,
      hmem, decide_eq_true_eq]
    omega

/-- R203: where the order is fixed, a block step takes the least pending index. -/
theorem State.nextIndex_le {s : State} {d : Dir} {m : Mode} (hf : freeOrder d m = false) {j : Nat}
    (hj : j ∈ s.pending) : s.nextIndex d m ≤ j := by
  simp only [State.nextIndex, hf]
  exact List.min?_getD_le_of_mem hj

theorem freeOrder_of_usesFb {d : Dir} {m : Mode} (h : usesFb d m = true) : freeOrder d m = false := by
  cases d <;> cases m <;> simp_all [usesFb, freeOrder]

/-- A BLOCKS step with an index pending writes one block of the phase. -/
theorem BlockPhase.blocks_next (hrule : RuleGives i value feedback s) (hs : s.phase = .blocks)
    (h : BlockPhase i value feedback s v) (hp : v.pending ≠ []) :
    ∃ w, Advances i 1 v w ∧ BlockPhase i value feedback s w ∧ w.pending.length + 1 = v.pending.length := by
  have hph : v.phase = .blocks := h.phase.trans hs
  have hk := v.nextIndex_mem i.dir i.mode hp
  have hholds := h.running.inv.blockHolds (h.running.operation (by simp [hph])) (.inl hph)
  have hle : usesFb i.dir i.mode = true → ∀ j ∈ v.pending, v.nextIndex i.dir i.mode ≤ j :=
    fun hu j hj => State.nextIndex_le (freeOrder_of_usesFb hu) hj
  obtain ⟨y, hreq, hval, hfb⟩ := hrule v _ h.toKeepsOperation (h.lt_nblk (.inl hs) hk) fun hu =>
    ⟨(h.fb_eq hu hk (hle hu)).1, State.fb_length_of_blockHolds hholds hu⟩
  obtain ⟨hn, -⟩ | ⟨-, y', hreq', hstep⟩ | ⟨-, hreq', -⟩ := blocksStep_cases i v
  · exact absurd hn hp
  · rw [blockRequest_choose, hreq] at hreq'
    cases hreq'
    rw [blockValue_choose, hval, blockFb_choose] at hstep
    have g := (v.choose_keepsOperation i.dir i.mode).toGoesOn.trans
      ((v.choose i.dir i.mode).writeBlock_goesOn i.dir i.mode (v.nextIndex i.dir i.mode)
        (value (v.nextIndex i.dir i.mode)) (blockFb i (v.nextIndex i.dir i.mode) v y))
    have adv := h.running.advances ((exec_blocks hph hholds).trans (congrArg _ hstep)) g
    refine ⟨_, adv, h.choose.writeBlock (by simpa using hk) ?_ adv.running fun hu =>
      ⟨by simpa using hle hu, hfb hu⟩, ?_⟩
    · rw [State.choose_blkSz, ← hval]
      exact blockValue_length (blockRequest_length hreq) (State.fb_length_of_blockHolds hholds)
    · simpa using (h.running.choose i.dir i.mode).inv.length_retire (by simpa using hk)
  · rw [blockRequest_choose, hreq] at hreq'
    cases hreq'

/-- R144, R202: a COMBINE step with an index pending combines the block of the least one. -/
theorem State.combineStep_eq_writeBlock (s : State) (hp : s.pending ≠ []) {k : Nat} (hk : k = s.nextIndex .enc .cbc) :
    s.combineStep =
      s.writeBlock .dec .cbc k (xor (s.outBlk .dec .cbc k) (Closed.prev s.iv (s.cBlk .cbc) k)) s.fb := by
  subst hk
  have hprev : ∀ k, (if k = 0 then s.iv else s.cBlk .cbc (k - 1)) = Closed.prev s.iv (s.cBlk .cbc) k := by
    rintro (_ | k) <;> rfl
  rw [← hprev]
  exact (if_neg hp : s.combineStep = (s.combineBlock _).retire _)

theorem Closed.prev_length {iv : ByteString} {c : Nat → ByteString} {b : Nat} (hiv : iv.length = b)
    (hc : ∀ k, (c k).length = b) (k : Nat) : (Closed.prev iv c k).length = b := by
  cases k
  · exact hiv
  · exact hc _

/-- A COMBINE step with an index pending writes one block of the phase. -/
theorem BlockPhase.combine_next (hd : i.dir = .dec) (hm : i.mode = .cbc) (hs : s.phase = .combine)
    (hvalue : ∀ k, k < s.nblk →
      value k = xor (s.outBlk .dec .cbc k) (Closed.prev s.iv (s.cBlk .cbc) k))
    (h : BlockPhase i value feedback s v) (hp : v.pending ≠ []) :
    ∃ w, Advances i 1 v w ∧ BlockPhase i value feedback s w ∧ w.pending.length + 1 = v.pending.length := by
  have hph : v.phase = .combine := h.phase.trans hs
  obtain ⟨k, hk⟩ : ∃ k, k = v.nextIndex .enc .cbc := ⟨_, rfl⟩
  have hmem : k ∈ v.pending := hk ▸ v.nextIndex_mem .enc .cbc hp
  have hlt := h.lt_nblk (.inr hs) hmem
  have hholds := h.running.inv.blockHolds (h.running.operation (by simp [hph])) (.inr hph)
  have hcBlk : v.cBlk .cbc = s.cBlk .cbc := funext fun j => h.cBlk .cbc j
  have hblk := h.blocks k hlt
  rw [if_pos hmem, hd, hm] at hblk
  have hstep := v.combineStep_eq_writeBlock hp hk
  rw [hblk, h.iv, hcBlk, ← hvalue k hlt, ← hd, ← hm] at hstep
  have hexec := exec_combine hph hd hm (by rwa [hd, hm] at hholds)
  have adv := h.running.advances (hexec.trans (congrArg _ hstep)) (v.writeBlock_goesOn ..)
  refine ⟨_, adv, h.writeBlock hmem ?_ adv.running fun hu => ?_, h.running.inv.length_retire hmem⟩
  · rw [hvalue k hlt, h.blkSz, xor_length, State.outBlk_length, Closed.prev_length s.iv_length (s.cBlk_length .cbc),
      min_self]
  · simp [hd, hm, usesFb] at hu

/-- A phase that goes on while an index is pending ends, in as many steps as there are, with every block written. -/
theorem BlockPhase.runs_out (h : BlockPhase i value feedback s v)
    (hnext : ∀ v, BlockPhase i value feedback s v → v.pending ≠ [] →
      ∃ w, Advances i 1 v w ∧ BlockPhase i value feedback s w ∧ w.pending.length + 1 = v.pending.length) :
    ∃ w, Advances i v.pending.length v w ∧ BlockPhase i value feedback s w ∧ w.pending = [] := by
  induction hn : v.pending.length generalizing v with
  | zero => exact ⟨v, .refl h.running, h, List.length_eq_zero_iff.1 hn⟩
  | succ n ih =>
    obtain ⟨u, hu, hphase, hlen⟩ := hnext v h (fun hnil => by simp [hnil] at hn)
    obtain ⟨w, hw, hend⟩ := ih hphase (by omega)
    exact ⟨w, Nat.add_comm n 1 ▸ hu.trans hw, hend⟩

end blockPhase

/-! ## The closed forms, by FB (R205) -/

/-- R205: FB before block `k` of an ENC operation (in ECB and CTR it is not read). -/
def Closed.encFb (m : Mode) (e : ByteString → ByteString) (iv seed : ByteString) (p : Nat → ByteString) (k : Nat) :
    ByteString :=
  match m with
  | .cbc => Closed.prev iv (Closed.cbcC e iv p) k
  | .pcbc => Closed.pcbcG e iv p k
  | .cfb => Closed.prev iv (Closed.cfbC e iv p) k
  | .ofb => Closed.prev iv (Closed.ofbF e iv) k
  | .rd => Closed.rdD e seed p k
  | .ecb | .ctr => iv

/-- R205: FB before block `k` of a DEC operation (in ECB and CTR it is not read); in CBC, what COMBINE combines block
`k` with. -/
def Closed.decFb (m : Mode) (e d : ByteString → ByteString) (iv seed : ByteString) (c : Nat → ByteString) (k : Nat) :
    ByteString :=
  match m with
  | .cbc | .cfb => Closed.prev iv c k
  | .pcbc => Closed.pcbcDecG d iv c k
  | .ofb => Closed.prev iv (Closed.ofbF e iv) k
  | .rd => Closed.rdDecD seed c k
  | .ecb | .ctr => iv

/-- R143, R205: the block that BLOCKS of a DEC operation writes: in CBC the raw block, in every other mode the result.
-/
def Closed.rawBlock (m : Mode) (e d : ByteString → ByteString) (iv seed : ByteString) (base : Nat)
    (c : Nat → ByteString) (k : Nat) : ByteString :=
  if m = .cbc then d (c k) else Closed.decBlock m e d iv seed base c k

theorem Closed.cbcC_eq (e : ByteString → ByteString) (iv : ByteString) (p : Nat → ByteString) (k : Nat) :
    Closed.cbcC e iv p k = e (xor (p k) (Closed.prev iv (Closed.cbcC e iv p) k)) := by cases k <;> rfl

theorem Closed.cfbC_eq (e : ByteString → ByteString) (iv : ByteString) (p : Nat → ByteString) (k : Nat) :
    Closed.cfbC e iv p k = xor (p k) (e (Closed.prev iv (Closed.cfbC e iv p) k)) := by cases k <;> rfl

theorem Closed.ofbF_eq (e : ByteString → ByteString) (iv : ByteString) (k : Nat) :
    Closed.ofbF e iv k = e (Closed.prev iv (Closed.ofbF e iv) k) := by cases k <;> rfl

/-- R205: the cipher answers the block rule of an ENC command, and the rule computes the closed form. -/
theorem encRule {i : Instr} {s : State} {e : ByteString → ByteString} {p : Nat → ByteString} (seed : ByteString)
    (hd : i.dir = .enc) (he : ∀ x, x.length = s.blkSz → s.cipherEnc x = some (e x))
    (hp : ∀ k, k < s.nblk → s.pBlk k = p k) :
    RuleGives i (Closed.encBlock i.mode e s.iv seed s.plat.ctrBase.val p) (Closed.encFb i.mode e s.iv seed p) s := by
  intro v k hv hk hfb
  have hE : ∀ x, x.length = v.blkSz → v.cipherEnc x = some (e x) := fun x hx =>
    (hv.cipherEnc x).trans (he x (hx.trans hv.blkSz))
  have hP : v.pBlk k = p k := (hv.pBlk k).trans (hp k hk)
  have hX : v.fb.length = v.blkSz → v.cipherEnc (xor (v.pBlk k) v.fb) = some (e (xor (p k) v.fb)) := fun hl =>
    hP ▸ hE _ (by rw [xor_length, State.pBlk_length, hl, min_self])
  cases i
  case encEcb => exact ⟨_, hE _ (v.pBlk_length k), congrArg e hP, nofun⟩
  case encCbc =>
    obtain ⟨hf, hl⟩ := hfb rfl
    refine ⟨_, hX hl, ?_, fun _ => ?_⟩ <;> rw [hf] <;> exact (Closed.cbcC_eq ..).symm
  case encPcbc =>
    obtain ⟨hf, hl⟩ := hfb rfl
    refine ⟨_, hX hl, ?_, fun _ => ?_⟩ <;> rw [hf]
    · rfl
    · exact congrArg (xor · _) hP
  case encCfb =>
    obtain ⟨hf, hl⟩ := hfb rfl
    have hC : xor (v.pBlk k) (e v.fb) = Closed.cfbC e s.iv p k := by
      rw [hP, hf]
      exact (Closed.cfbC_eq ..).symm
    exact ⟨_, hE _ hl, hC, fun _ => hC⟩
  case encOfb =>
    obtain ⟨hf, hl⟩ := hfb rfl
    have hF : e v.fb = Closed.ofbF e s.iv k := by
      rw [hf]
      exact (Closed.ofbF_eq ..).symm
    exact ⟨_, hE _ hl, congrArg₂ xor hP hF, fun _ => hF⟩
  case encCtr =>
    have hC : v.ctr k = addbe s.iv (k + s.plat.ctrBase.val) := hv.ctr k
    exact ⟨_, hE _ (v.ctr_length k), congrArg₂ xor hP (congrArg e hC), nofun⟩
  case encRd =>
    obtain ⟨hf, hl⟩ := hfb rfl
    refine ⟨_, hX hl, congrArg (fun f => e (xor (p k) f)) hf, fun _ => ?_⟩
    exact congrArg (fun f => xor f (e (xor (p k) f))) hf
  all_goals cases hd

/-- R205: the modes whose DEC rule calls `CipherEnc` (R161, R163, R166). -/
abbrev StreamMode (m : Mode) : Prop := m = .cfb ∨ m = .ofb ∨ m = .ctr

/-- R205: where the cipher answers what a DEC operation asks of it, it answers the block rule, which computes the closed
form (in CBC the raw block). -/
theorem decRule {i : Instr} {s : State} {e d : ByteString → ByteString} (seed : ByteString) (hdir : i.dir = .dec)
    (he : StreamMode i.mode → ∀ x, x.length = s.blkSz → s.cipherEnc x = some (e x))
    (hd : ¬ StreamMode i.mode → ∀ k, k < s.nblk → s.cipherDec (s.cBlk i.mode k) = some (d (s.cBlk i.mode k))) :
    RuleGives i (Closed.rawBlock i.mode e d s.iv seed s.plat.ctrBase.val (s.cBlk i.mode))
      (Closed.decFb i.mode e d s.iv seed (s.cBlk i.mode)) s := by
  intro v k hv hk hfb
  have hC : ∀ m, v.cBlk m k = s.cBlk m k := fun m => hv.cBlk m k
  have hE : StreamMode i.mode → ∀ x, x.length = v.blkSz → v.cipherEnc x = some (e x) := fun hm x hx =>
    (hv.cipherEnc x).trans (he hm x (hx.trans hv.blkSz))
  have hD : ¬ StreamMode i.mode → v.cipherDec (v.cBlk i.mode k) = some (d (s.cBlk i.mode k)) := fun hm => by
    rw [hv.cipherDec, hC, hd hm k hk]
  cases i
  case decEcb => exact ⟨_, hD (by simp [Instr.mode]), rfl, nofun⟩
  case decCbc => exact ⟨_, hD (by simp [Instr.mode]), rfl, nofun⟩
  case decPcbc =>
    obtain ⟨hf, -⟩ := hfb rfl
    refine ⟨_, hD (by simp [Instr.mode]), congrArg (xor _) hf, fun _ => congrArg₂ xor (congrArg (xor _) hf) (hC .pcbc)⟩
  case decCfb =>
    obtain ⟨hf, hl⟩ := hfb rfl
    exact ⟨_, hE (.inl rfl) _ hl, congrArg₂ xor (hC .cfb) (congrArg e hf), fun _ => hC .cfb⟩
  case decOfb =>
    obtain ⟨hf, hl⟩ := hfb rfl
    have hF : e v.fb = Closed.ofbF e s.iv k := by
      rw [hf]
      exact (Closed.ofbF_eq ..).symm
    exact ⟨_, hE (.inr (.inl rfl)) _ hl, congrArg₂ xor (hC .ofb) hF, fun _ => hF⟩
  case decCtr =>
    have hctr : v.ctr k = addbe s.iv (k + s.plat.ctrBase.val) := hv.ctr k
    exact ⟨_, hE (.inr (.inr rfl)) _ (v.ctr_length k), congrArg₂ xor (hC .ctr) (congrArg e hctr), nofun⟩
  case decRd =>
    obtain ⟨hf, -⟩ := hfb rfl
    exact ⟨_, hD (by simp [Instr.mode]), congrArg (xor _) hf, fun _ => congrArg₂ xor hf (hC .rd)⟩
  all_goals cases hdir

/-! ## INIT (R199) -/

theorem State.loadFb_fb_enc (s : State) {m : Mode} (hu : usesFb .enc m = true) (e : ByteString → ByteString)
    (p : Nat → ByteString) : (s.loadFb .enc m).fb = Closed.encFb m e s.iv (s.rndBytes s.blkSz) p 0 := by
  cases m
  case ecb => cases hu
  case ctr => cases hu
  all_goals rfl

theorem State.loadFb_fb_dec (s : State) {m : Mode} (hu : usesFb .dec m = true) (e d : ByteString → ByteString)
    (c : Nat → ByteString) : (s.loadFb .dec m).fb = Closed.decFb m e d s.iv (s.memRead .inbuf 0 s.blkSz) c 0 := by
  cases m
  case ecb => cases hu
  case cbc => cases hu
  case ctr => cases hu
  all_goals rfl

/-- R180: INIT of ENC.RD writes the seed before the result's blocks. -/
theorem State.byteAt_initStep_seed (s : State) {a : Nat} (ha : a < s.blkSz) :
    (s.initStep .enc .rd).byteAt .outbuf a = (s.rndBytes s.blkSz).getD a 0 := by
  refine (State.byteAt_writeOut _ 0 _ a).trans (if_pos ?_)
  simpa using ha

/-! ## An operation, phase by phase (R200) -/

/-- A block rule gives the same in the states that keep the operation. -/
theorem RuleGives.of_keeps {i : Instr} {value feedback : Nat → ByteString} {s t : State}
    (h : RuleGives i value feedback s) (k : KeepsOperation s t) : RuleGives i value feedback t :=
  fun v j hv hj hfb => h v j (k.trans hv) (k.nblk ▸ hj) hfb

/-- INIT and BLOCKS: with the block rule answered, NBLK + 1 steps write every block. -/
theorem Running.init_blocks {i : Instr} {value feedback : Nat → ByteString} {s : State} (h : Running i s)
    (hp : s.phase = .init) (hrule : RuleGives i value feedback s)
    (hf : usesFb i.dir i.mode = true → (s.loadFb i.dir i.mode).fb = feedback 0) :
    ∃ v, Advances i (s.nblk + 1) s v ∧ BlockPhase i value feedback (s.initStep i.dir i.mode) v ∧ v.pending = [] := by
  have hk := s.initStep_keepsOperation i.dir i.mode
  have hs := h.inv.spacesHold (h.operation (by simp [hp])) (by simp [hp])
  have adv := h.advances (exec_init hp hs) hk.toGoesOn
  have hpend : (s.initStep i.dir i.mode).pending = List.range (s.initStep i.dir i.mode).nblk := by
    rw [hk.nblk]
    rfl
  obtain ⟨v, hv, hphase, hnil⟩ := (BlockPhase.start adv.running hpend hf).runs_out
    fun v hv => hv.blocks_next (hrule.of_keeps hk) rfl
  rw [hpend, List.length_range, hk.nblk] at hv
  exact ⟨v, Nat.add_comm 1 s.nblk ▸ adv.trans hv, hphase, hnil⟩

/-- R201: with no index pending, BLOCKS closes. -/
theorem Running.exec_closeBlocks {i : Instr} {s : State} (h : Running i s) (hp : s.phase = .blocks)
    (hn : s.pending = []) : exec i s = .next (s.closeBlocks i.dir i.mode) := by
  rw [exec_blocks hp (h.inv.blockHolds (h.operation (by simp [hp])) (.inl hp))]
  simp [State.blocksStep, hn]

/-- R191: CHECK of an ENC command whose checks pass. -/
theorem State.checkStep_enc {s : State} {m : Mode} (hc : s.cbound = true) (hiv : s.ivBad m = false) :
    s.checkStep .enc m = { s with phase := .pad } := by
  simp [State.checkStep, hc, hiv]

/-- R191: CHECK of a DEC command whose checks pass. -/
theorem State.checkStep_dec {s : State} {m : Mode} (hc : s.cbound = true) (hin : s.inputBad m = false)
    (hiv : s.ivBad m = false) : s.checkStep .dec m =
      { s with nblk := s.inlen.toNat / s.blkSz - (if m = .rd then 1 else 0), padlen := 0, phase := .init } := by
  simp [State.checkStep, hc, hin, hiv]

/-! ## An ENC operation (R205) -/

section enc
variable {i : Instr} {s : State}

/-- R67, R205: after PAD, the blocks of the padded message. -/
theorem State.padStep_pBlk (hb : 1 ≤ s.blkSz) {k : Nat} (hk : k < encBlocks i s) :
    (s.padStep i.pad).pBlk k = plainBlock i s k := by
  refine List.map_congr_left fun j hj => ?_
  have hj : j < s.blkSz := List.mem_range.1 hj
  have hn : encBlocks i s * s.blkSz = s.inlen.toNat + (s.padStep i.pad).padlen := s.padStep_blocks i.pad hb
  have hlast : (k + 1) * s.blkSz ≤ encBlocks i s * s.blkSz := Nat.mul_le_mul_right _ hk
  rw [Nat.succ_mul] at hlast
  by_cases ha : k * s.blkSz + j < s.inlen.toNat
  · exact (if_pos ha).trans (if_pos ha).symm
  · refine (if_neg ha).trans (Eq.trans ?_ (if_neg ha).symm)
    exact congrArg (·.getD 0) (s.padStep_tail_getElem? i.pad hb (k := k * s.blkSz + j - s.inlen.toNat) (by omega))

/-- R191, R120: CHECK and PAD of an ENC operation whose checks pass. -/
theorem AtStart.check_pad (h : AtStart i s) (hc : ChecksPass i s) (hd : i.dir = .enc) :
    Advances i 2 s (State.padStep { s with phase := .pad } i.pad) := by
  obtain ⟨hbound, -, hiv⟩ := hc
  have hcheck : exec i s = .next { s with phase := .pad } := by
    rw [exec_check h.check, hd, State.checkStep_enc hbound hiv]
  have adv := h.running.advances hcheck (.sequenced s .pad s.pending s.nblk s.padlen)
  exact adv.trans (adv.running.advances (exec_pad rfl hd) (State.padStep_goesOn _ _))

/-- R205: an ENC operation whose checks pass and whose cipher answers writes, in NBLK + 3 steps, the closed form. -/
theorem AtStart.enc_blocks {e : ByteString → ByteString} (h : AtStart i s) (hc : ChecksPass i s) (hd : i.dir = .enc)
    (he : ∀ x, x.length = s.blkSz → s.cipherEnc x = some (e x)) :
    ∃ v, Advances i (encBlocks i s + 3) s v ∧ v.phase = .blocks ∧ v.pending = [] ∧ v.nblk = encBlocks i s ∧
      (i.mode = .rd → ∀ a, a < s.blkSz → v.byteAt .outbuf a = (encSeed i s).getD a 0) ∧
      ∀ k, k < encBlocks i s → v.outBlk .enc i.mode k =
        Closed.encBlock i.mode e s.iv (encSeed i s) s.plat.ctrBase.val (plainBlock i s) k := by
  obtain ⟨t, ht⟩ : ∃ t, t = State.padStep { s with phase := .pad } i.pad := ⟨_, rfl⟩
  have adv := h.check_pad hc hd
  rw [← ht] at adv
  have hkeeps := adv.goesOn.toKeepsInputs
  have hn : t.nblk = encBlocks i s := by rw [ht]; rfl
  have hseed : t.rndBytes t.blkSz = encSeed i s := by
    rw [hkeeps.blkSz, ht]
    exact List.map_congr_left fun k _ => s.rndAt_drop _ k
  have hrule := encRule (p := plainBlock i s) (encSeed i s) hd
    (fun x hx => (hkeeps.cipherEnc x).trans (he x (hx.trans hkeeps.blkSz)))
    (fun k hk => by
      rw [ht]
      exact State.padStep_pBlk (s := { s with phase := .pad }) (h.inv.one_le_blkSz hc.1) (hn ▸ hk))
  obtain ⟨v, hv, hphase, hnil⟩ := adv.running.init_blocks (by rw [ht]; rfl) hrule (fun hu => by
    rw [hd] at hu ⊢
    rw [t.loadFb_fb_enc hu, hseed])
  rw [hkeeps.iv, hkeeps.plat] at hphase
  have hinit := t.initStep_keepsOperation i.dir i.mode
  have hnblk : v.nblk = encBlocks i s := (hphase.nblk.trans hinit.nblk).trans hn
  refine ⟨v, ?_, hphase.phase, hnil, hnblk, fun hm a ha => ?_, fun k hk => ?_⟩
  · have := adv.trans hv
    rwa [hn, show 2 + (encBlocks i s + 1) = encBlocks i s + 3 by omega] at this
  · rw [hphase.seed a, hd, hm, State.byteAt_initStep_seed, hseed]
    · rwa [hkeeps.blkSz]
    · have hoff : t.outAddr i.dir i.mode 0 = s.blkSz := by
        simp [State.outAddr, State.seedOff, hd, hm, hkeeps.blkSz]
      rwa [hinit.outAddr, hoff]
  · have := hphase.blocks k (by rwa [← hphase.nblk, hnblk])
    rwa [hnil, hd, if_neg (by simp)] at this

/-- R201, R205: an ENC operation whose checks pass and whose cipher answers ends, after NBLK + 4 steps, with the
closed form in OUTBUF. -/
theorem AtStart.enc_end {e : ByteString → ByteString} (h : AtStart i s) (hc : ChecksPass i s) (hd : i.dir = .enc)
    (he : ∀ x, x.length = s.blkSz → s.cipherEnc x = some (e x)) :
    ∃ t, runs (encBlocks i s + 4) s t ∧ EndedWell t ∧ KeepsInputs s t ∧
      t.outlen.toNat = s.seedOff i.mode + encBlocks i s * s.blkSz ∧
      (i.mode = .rd → ∀ a, a < s.blkSz → t.byteAt .outbuf a = (encSeed i s).getD a 0) ∧
      ∀ k, k < encBlocks i s → t.outBlk .enc i.mode k =
        Closed.encBlock i.mode e s.iv (encSeed i s) s.plat.ctrBase.val (plainBlock i s) k := by
  obtain ⟨v, adv, hp, hnil, hn, hseed, hblk⟩ := h.enc_blocks hc hd he
  have hclose := adv.running.exec_closeBlocks hp hnil
  have hholds := adv.running.inv.spacesHold (adv.running.operation (by simp [hp])) (by simp [hp])
  rw [hd] at hclose hholds
  have hrun := runs_trans adv.run (runs_succ (adv.running.step_eq.trans hclose) (runs_zero _))
  refine ⟨_, hrun, ⟨rfl, rfl, rfl, rfl⟩, adv.goesOn.toKeepsInputs.trans (v.finish_keepsInputs _), ?_, hseed, hblk⟩
  rw [← hn, ← adv.goesOn.blkSz, ← adv.goesOn.seedOff]
  exact State.finish_outlen_toNat adv.running.inv.platform ((State.result_fits hholds).2 rfl)

end enc

/-! ## A DEC operation (R205) -/

section dec
variable {i : Instr} {s : State}

/-- R191: CHECK of a DEC operation whose checks pass. -/
theorem AtStart.check_dec (h : AtStart i s) (hc : ChecksPass i s) (hd : i.dir = .dec) :
    Advances i 1 s { s with nblk := decBlocks i s, padlen := 0, phase := .init } := by
  obtain ⟨hbound, hin, hiv⟩ := hc
  refine h.running.advances ?_ (.sequenced s .init s.pending (decBlocks i s) 0)
  rw [exec_check h.check, hd, State.checkStep_dec hbound (hin hd) hiv]
  rfl

/-- R205: BLOCKS of a DEC operation writes the closed form, in CBC the raw blocks. -/
theorem AtStart.dec_blocks {e d : ByteString → ByteString} (h : AtStart i s) (hc : ChecksPass i s) (hdir : i.dir = .dec)
    (he : StreamMode i.mode → ∀ x, x.length = s.blkSz → s.cipherEnc x = some (e x))
    (hd : ¬ StreamMode i.mode → ∀ k, k < decBlocks i s → s.cipherDec (s.cBlk i.mode k) = some (d (s.cBlk i.mode k))) :
    ∃ v, Advances i (decBlocks i s + 2) s v ∧ v.phase = .blocks ∧ v.pending = [] ∧ v.nblk = decBlocks i s ∧
      ∀ k, k < decBlocks i s → v.outBlk .dec i.mode k =
        Closed.rawBlock i.mode e d s.iv (s.memRead .inbuf 0 s.blkSz) s.plat.ctrBase.val (s.cBlk i.mode) k := by
  obtain ⟨t, ht⟩ : ∃ t, t = { s with nblk := decBlocks i s, padlen := 0, phase := .init } := ⟨_, rfl⟩
  have adv := h.check_dec hc hdir
  have hrule := decRule (s := { s with nblk := decBlocks i s, padlen := 0, phase := .init })
    (s.memRead .inbuf 0 s.blkSz) hdir he hd
  rw [← ht] at adv hrule
  obtain ⟨v, hv, hphase, hnil⟩ := adv.running.init_blocks (by rw [ht]) hrule (fun hu => by
    rw [hdir] at hu ⊢
    rw [t.loadFb_fb_dec hu e d (t.cBlk i.mode), ht]
    rfl)
  have hinit := t.initStep_keepsOperation i.dir i.mode
  have hn : t.nblk = decBlocks i s := by rw [ht]
  have hnblk : v.nblk = decBlocks i s := (hphase.nblk.trans hinit.nblk).trans hn
  refine ⟨v, ?_, hphase.phase, hnil, hnblk, fun k hk => ?_⟩
  · have := adv.trans hv
    rwa [hn, Nat.add_comm 1] at this
  · have := hphase.blocks k (by rwa [← hphase.nblk, hnblk])
    rw [hnil, hdir, if_neg (by simp), ht] at this
    exact this

/-- R144, R202: COMBINE of DEC.CBC, from the end of BLOCKS to UNPAD. -/
theorem Running.combine_unpad {v : State} (h : Running i v) (hp : v.phase = .blocks) (hn : v.pending = [])
    (hd : i.dir = .dec) (hm : i.mode = .cbc) :
    ∃ w, Advances i (v.nblk + 2) v w ∧ w.phase = .unpad ∧ w.nblk = v.nblk ∧ ∀ k, k < v.nblk →
      w.outBlk .dec .cbc k = xor (v.outBlk .dec .cbc k) (Closed.prev v.iv (v.cBlk .cbc) k) := by
  have hclose := h.exec_closeBlocks hp hn
  rw [hd, hm] at hclose
  have adv : Advances i 1 v { v with pending := List.range v.nblk, phase := .combine } :=
    h.advances hclose (.sequenced v .combine (List.range v.nblk) v.nblk v.padlen)
  have hstart := BlockPhase.start (feedback := fun _ => v.fb)
    (value := fun k => xor (v.outBlk .dec .cbc k) (Closed.prev v.iv (v.cBlk .cbc) k)) adv.running rfl (fun _ => rfl)
  obtain ⟨w, hw, hphase, hnil⟩ := hstart.runs_out fun u hu => hu.combine_next hd hm rfl fun _ _ => rfl
  have hwp : w.phase = .combine := hphase.phase
  have hend : exec i w = .next { w with phase := .unpad } := by
    have hholds := hphase.running.inv.blockHolds (hphase.running.operation (by simp [hwp])) (.inr hwp)
    rw [hd, hm] at hholds
    rw [exec_combine hwp hd hm hholds, State.combineStep, if_pos hnil]
  have adv' := hphase.running.advances hend (.sequenced w .unpad w.pending w.nblk w.padlen)
  refine ⟨{ w with phase := .unpad }, ?_, rfl, hphase.nblk, fun k hk => ?_⟩
  · have := (adv.trans hw).trans adv'
    rwa [List.length_range, show 1 + v.nblk + 1 = v.nblk + 2 by omega] at this
  · have := hphase.blocks k hk
    rw [hnil, hd, hm, if_neg (by simp)] at this
    exact this

/-- R205: a DEC operation whose checks pass and whose cipher answers what is asked of it reaches UNPAD, in NBLK + 3
steps (2 * NBLK + 4 in CBC), with the closed form in OUTBUF. -/
theorem AtStart.dec_unpad {e d : ByteString → ByteString} (h : AtStart i s) (hc : ChecksPass i s) (hdir : i.dir = .dec)
    (he : StreamMode i.mode → ∀ x, x.length = s.blkSz → s.cipherEnc x = some (e x))
    (hd : ¬ StreamMode i.mode → ∀ k, k < decBlocks i s → s.cipherDec (s.cBlk i.mode k) = some (d (s.cBlk i.mode k))) :
    ∃ v, Advances i (if i.mode = .cbc then 2 * decBlocks i s + 4 else decBlocks i s + 3) s v ∧ v.phase = .unpad ∧
      v.nblk = decBlocks i s ∧ ∀ k, k < decBlocks i s → v.outBlk .dec i.mode k =
        Closed.decBlock i.mode e d s.iv (s.memRead .inbuf 0 s.blkSz) s.plat.ctrBase.val (s.cBlk i.mode) k := by
  obtain ⟨v, adv, hp, hnil, hn, hblk⟩ := h.dec_blocks hc hdir he hd
  by_cases hm : i.mode = .cbc
  · obtain ⟨w, adv', hwp, hwn, hwblk⟩ := adv.running.combine_unpad hp hnil hdir hm
    have hcBlk : v.cBlk .cbc = s.cBlk .cbc := funext (adv.goesOn.cBlk .cbc)
    rw [hm] at hblk ⊢
    refine ⟨w, ?_, hwp, hwn.trans hn, fun k hk => ?_⟩
    · have := adv.trans adv'
      rwa [hn, show decBlocks i s + 2 + (decBlocks i s + 2) = 2 * decBlocks i s + 4 by omega] at this
    · rw [hwblk k (by rwa [hn]), hblk k hk, adv.goesOn.iv, hcBlk]
      rfl
  · have hclose := adv.running.exec_closeBlocks hp hnil
    rw [hdir, State.closeBlocks, if_neg hm] at hclose
    have adv' := adv.running.advances hclose (.sequenced v .unpad v.pending v.nblk v.padlen)
    rw [if_neg hm]
    refine ⟨_, adv.trans adv', rfl, hn, fun k hk => (hblk k hk).trans (if_neg hm)⟩

end dec

end Sys2Proof.Machine
end

section
/-!
PROOFS. Encrypt, then decrypt: the closed forms of the two directions are inverses of each other, block by block; a
run ends in one state; and the round trip of a whole operation.
-/

namespace Sys2Proof.Machine

/-! ## The closed forms are inverses (R147, R167, R185) -/

section inverse
variable {m : Mode} {e d : ByteString → ByteString} {iv seed seed' : ByteString} {base b n k : Nat}
  {p c : Nat → ByteString}

theorem xor_length_of_blocks {x y : ByteString} (hx : x.length = b) (hy : y.length = b) : (xor x y).length = b := by
  rw [xor_length, hx, hy, min_self]

/-- R36: an ENC rule leaves a block in FB. -/
theorem Closed.encFb_succ_length (he : ∀ x, x.length = b → (e x).length = b) (hk : (p k).length = b)
    (hfb : (Closed.encFb m e iv seed p k).length = b) : (Closed.encFb m e iv seed p (k + 1)).length = b := by
  have hreq := he _ (xor_length_of_blocks hk hfb)
  cases m
  case ecb => exact hfb
  case cbc => exact (congrArg List.length (Closed.cbcC_eq e iv p k)).trans hreq
  case pcbc => exact xor_length_of_blocks hk hreq
  case cfb =>
    exact (congrArg List.length (Closed.cfbC_eq e iv p k)).trans (xor_length_of_blocks hk (he _ hfb))
  case ofb => exact (congrArg List.length (Closed.ofbF_eq e iv k)).trans (he _ hfb)
  case ctr => exact hfb
  case rd => exact xor_length_of_blocks hfb hreq

/-- R36: FB of an ENC operation is a block. -/
theorem Closed.encFb_length (hiv : iv.length = b) (hseed : seed.length = b)
    (he : ∀ x, x.length = b → (e x).length = b) (hp : ∀ k, k < n → (p k).length = b) (hk : k ≤ n) :
    (Closed.encFb m e iv seed p k).length = b := by
  induction k with
  | zero => cases m <;> assumption
  | succ k ih => exact Closed.encFb_succ_length he (hp k hk) (ih (Nat.le_of_succ_le hk))

/-- R205: in the modes whose DEC rule calls `CipherDec`, a ciphertext block is an answer of the cipher to a block. -/
theorem Closed.encBlock_eq_answer (hm : ¬ StreamMode m) (hk : (p k).length = b)
    (hfb : (Closed.encFb m e iv seed p k).length = b) :
    ∃ x, x.length = b ∧ Closed.encBlock m e iv seed base p k = e x := by
  have hreq := xor_length_of_blocks hk hfb
  cases m
  case ecb => exact ⟨_, hk, rfl⟩
  case cbc => exact ⟨_, hreq, Closed.cbcC_eq e iv p k⟩
  case pcbc => exact ⟨_, hreq, rfl⟩
  case rd => exact ⟨_, hreq, rfl⟩
  all_goals exact absurd (by decide) hm

/-- R147, R167, R185: on ciphertext block `k`, and with FB as the ENC rule had it, the DEC rule gives plaintext block
`k` back and leaves FB as the ENC rule left it. -/
theorem Closed.decBlock_of_encBlock (hk : (p k).length = b) (hfb : (Closed.encFb m e iv seed p k).length = b)
    (he : ∀ x, x.length = b → (e x).length = b) (hd : ¬ StreamMode m → ∀ x, x.length = b → d (e x) = x)
    (hc : c k = Closed.encBlock m e iv seed base p k)
    (heq : Closed.decFb m e d iv seed' c k = Closed.encFb m e iv seed p k) :
    Closed.decBlock m e d iv seed' base c k = p k ∧
      Closed.decFb m e d iv seed' c (k + 1) = Closed.encFb m e iv seed p (k + 1) := by
  have hcancel {x : ByteString} (hx : x.length = b) : xor (xor (p k) x) x = p k := xor_cancel (hk.trans hx.symm)
  have hchain (hm : ¬ StreamMode m) (hC : c k = e (xor (p k) (Closed.encFb m e iv seed p k))) :
      xor (d (c k)) (Closed.decFb m e d iv seed' c k) = p k := by
    rw [hC, hd hm _ (xor_length_of_blocks hk hfb), heq, hcancel hfb]
  cases m
  case ecb => exact ⟨(congrArg d hc).trans (hd (by decide) _ hk), rfl⟩
  case cbc => exact ⟨hchain (by decide) (hc.trans (Closed.cbcC_eq e iv p k)), hc⟩
  case pcbc =>
    have hP := hchain (by decide) hc
    exact ⟨hP, congrArg₂ xor hP hc⟩
  case cfb =>
    have hC := hc.trans (Closed.cfbC_eq e iv p k)
    exact ⟨(congrArg₂ xor hC (congrArg e heq)).trans (hcancel (he _ hfb)), hc⟩
  case ofb =>
    have hF : (Closed.ofbF e iv k).length = b := (congrArg List.length (Closed.ofbF_eq e iv k)).trans (he _ hfb)
    exact ⟨(congrArg (xor · _) hc).trans (hcancel hF), rfl⟩
  case ctr => exact ⟨(congrArg (xor · _) hc).trans (hcancel (he _ ((addbe_length ..).trans hfb))), rfl⟩
  case rd => exact ⟨hchain (by decide) hc, congrArg₂ xor heq hc⟩

/-- R147, R167, R185: the DEC closed form of a ciphertext in closed form is the plaintext. -/
theorem Closed.decBlock_encBlock (hiv : iv.length = b) (hseed : seed.length = b) (hseed' : m = .rd → seed' = seed)
    (he : ∀ x, x.length = b → (e x).length = b) (hd : ¬ StreamMode m → ∀ x, x.length = b → d (e x) = x)
    (hp : ∀ k, k < n → (p k).length = b) (hc : ∀ k, k < n → c k = Closed.encBlock m e iv seed base p k) (hk : k < n) :
    Closed.decBlock m e d iv seed' base c k = p k := by
  have hlen {k : Nat} (hk : k ≤ n) : (Closed.encFb m e iv seed p k).length = b :=
    Closed.encFb_length hiv hseed he hp hk
  have hfb : ∀ k, k ≤ n → Closed.decFb m e d iv seed' c k = Closed.encFb m e iv seed p k := by
    intro k
    induction k with
    | zero =>
      cases m
      case rd => exact fun _ => hseed' rfl
      all_goals exact fun _ => rfl
    | succ k ih =>
      intro hk
      have hle := Nat.le_of_succ_le hk
      exact (Closed.decBlock_of_encBlock (hp k hk) (hlen hle) he hd (hc k hk) (ih hle)).2
  exact (Closed.decBlock_of_encBlock (hp k hk) (hlen hk.le) he hd (hc k hk) (hfb k hk.le)).1

end inverse

/-! ## A run ends in one state -/

/-- A step of the engine alone keeps the inputs of the operation, in every state of the invariant. -/
theorem State.Inv.step_keepsInputs {s t : State} (h : s.Inv) (ha : s.host.todo = []) (hs : step s = .next t) :
    KeepsInputs s t := by
  rw [step_of_no_move ha] at hs
  by_cases hb : s.busy = true
  · have hidle : s.phase ≠ .idle := fun hp => by simp [h.idleIff.1 hp] at hb
    cases hd : decode s.ctx with
    | ok i => exact exec_keepsInputs hidle ((engineTurn_of_decoded hb hd).symm.trans hs)
    | error e =>
      rw [State.illegalStep_next ((engineTurn_of_illegal hb hd).symm.trans hs)]
      exact s.raise_keepsInputs _
  · cases (engineTurn_of_idle (by simpa using hb)).symm.trans hs
    exact (KeepsOperation.refl s).toKeepsInputs

/-- A run of the engine alone keeps the invariant and the inputs of the operation. -/
theorem State.Inv.run {n : Nat} {s t : State} (h : s.Inv) (ha : s.host.todo = []) (hr : runs n s t) :
    t.Inv ∧ KeepsInputs s t := by
  induction n generalizing s with
  | zero =>
    cases hr
    exact ⟨h, (KeepsOperation.refl t).toKeepsInputs⟩
  | succ n ih =>
    obtain ⟨u, hs, hu⟩ := runs_cases hr
    have hk := h.step_keepsInputs ha hs
    obtain ⟨ht, hk'⟩ := ih (stepKeepsInvariant s u h hs) (hk.host ▸ ha) hu
    exact ⟨ht, hk.trans hk'⟩

/-- From a state that steps to itself every run ends there. -/
theorem runs_stay {s : State} (h : step s = .next s) (n : Nat) : runs n s s := by
  induction n with
  | zero => exact runs_zero s
  | succ n ih => exact runs_succ h ih

/-- Two runs from one state end alike when each ends in a state that steps to itself. -/
theorem runs_end_unique {n m : Nat} {s t v : State} (ht : runs n s t) (hv : runs m s v) (hst : step t = .next t)
    (hsv : step v = .next v) : t = v := by
  have h1 := runs_trans ht (runs_stay hst m)
  have h2 := runs_trans hv (runs_stay hsv n)
  rw [Nat.add_comm] at h2
  exact Host.Outcome.next.inj (h1.symm.trans h2)

/-- R237: an idle engine whose host has no move pending stays as it is. -/
theorem State.Inv.step_of_idle {s : State} (h : s.Inv) (ha : s.host.todo = []) (hp : s.phase = .idle) :
    step s = .next s :=
  (step_of_no_move ha).trans (engineTurn_of_idle (h.idleIff.1 hp))

/-- The end of an operation is the only idle state that a run from its start reaches. -/
theorem AtStart.end_unique {i : Instr} {n m : Nat} {s t v : State} (h : AtStart i s) (ht : runs n s t)
    (hv : runs m s v) (htp : t.phase = .idle) (hvp : v.phase = .idle) : t = v := by
  obtain ⟨htinv, htk⟩ := h.inv.run h.alone ht
  obtain ⟨hvinv, hvk⟩ := h.inv.run h.alone hv
  exact runs_end_unique ht hv (htinv.step_of_idle (htk.host ▸ h.alone) htp)
    (hvinv.step_of_idle (hvk.host ▸ h.alone) hvp)

/-! ## The round trip of an operation (R131, R147, R167, R185) -/

/-- R192 to R194: a DEC operation on a result of whole blocks passes its checks where the ENC operation passed its
own, and has as many blocks. -/
theorem checksPass_of_result {i j : Instr} {s u : State} {n : Nat} (hm : j.mode = i.mode) (hc : ChecksPass i s)
    (hb : 1 ≤ s.blkSz) (hplat : u.plat = s.plat) (hivlen : u.ivlen = s.ivlen)
    (hlen : u.inlen.toNat = s.seedOff i.mode + n * s.blkSz) : ChecksPass j u ∧ decBlocks j u = n := by
  obtain ⟨hbound, -, hiv⟩ := hc
  have hblk : u.blkSz = s.blkSz := by simp [State.blkSz, hplat]
  have hblocks : u.inlen.toNat = (n + if i.mode = .rd then 1 else 0) * s.blkSz := by
    rw [hlen, Nat.add_mul, Nat.add_comm, State.seedOff]
    split <;> simp
  refine ⟨⟨by rwa [State.cbound, hplat], fun _ => ?_, ?_⟩, ?_⟩
  · have hle : i.mode = .rd → s.blkSz ≤ u.inlen.toNat := fun hrd => by
      rw [hlen, State.seedOff, if_pos hrd]
      exact Nat.le_add_right ..
    rw [hm, State.inputBad, hblk, hblocks, Nat.mul_mod_left]
    rw [hblocks] at hle
    simpa using hle
  · rw [← hiv, hm]
    simp [State.ivBad, State.needsIv, hplat, hivlen, hblk]
  · rw [decBlocks, hblk, hblocks, hm, Nat.mul_div_cancel _ hb, Nat.add_sub_cancel]

/-- R68, R69: a content block of an operation whose message is the result of another is the result's block. -/
theorem State.cBlk_eq_outBlk {t u : State} {m : Mode} {n k : Nat} (hplat : u.plat = t.plat)
    (hbytes : ∀ a, a < t.seedOff m + n * t.blkSz → u.byteAt .inbuf a = t.byteAt .outbuf a) (hk : k < n) :
    u.cBlk m k = t.outBlk .enc m k := by
  have hblk : u.blkSz = t.blkSz := by simp [State.blkSz, hplat]
  have hlast : (k + 1) * t.blkSz ≤ n * t.blkSz := Nat.mul_le_mul_right _ hk
  rw [Nat.succ_mul] at hlast
  rw [State.cBlk, State.seedOff, hblk]
  exact State.memRead_congr fun x hx => hbytes _ (by rw [State.seedOff]; omega)

/-- A read, byte by byte. -/
theorem State.memRead_eq {s : State} {sp : Space} {a : Nat} {bs : ByteString}
    (h : ∀ x, x < bs.length → s.byteAt sp (a + x) = bs.getD x 0) : s.memRead sp a bs.length = bs := by
  refine List.ext_getElem (s.memRead_length ..) fun x _ hx => ?_
  simpa [State.memRead, hx] using h x hx

/-- R67, R69: where the result's blocks are those of a padded message, so are its bytes. -/
theorem State.byteAt_eq_padded {v w : State} {m : Mode} {n : Nat} (hblk : v.blkSz = w.blkSz) (hb : 1 ≤ w.blkSz)
    (h : ∀ k, k < n → v.outBlk .dec m k = w.pBlk k) {a : Nat} (ha : a < n * w.blkSz) :
    v.byteAt .outbuf a = w.padded a := by
  have hk := h (a / w.blkSz) ((Nat.div_lt_iff_lt_mul hb).2 ha)
  have hmod := Nat.mod_lt a hb
  have hbyte := congrArg (·[a % w.blkSz]?) hk
  simpa [State.outBlk, State.outAddr, State.memRead, State.pBlk, hblk, hmod, Nat.div_add_mod'] using hbyte

/-- R125: an UNPAD step that records no error ends the operation well. -/
theorem State.unpadStep_endedWell {s : State} {p : PadScheme} (h : (s.unpadStep p).err = 0) :
    EndedWell (s.unpadStep p) := by
  obtain ⟨len, -, hs⟩ | hs := s.unpadStep_cases p <;> rw [hs] at h ⊢
  · exact ⟨rfl, rfl, rfl, rfl⟩
  · exact absurd h (EngineError.code_ne_zero .padding)

/-- R131: a DEC operation in UNPAD that holds the message of `s`, padded by a counted scheme, ends with the message. -/
theorem Running.unpad_message {i j : Instr} {s v : State} (h : Running j v) (hvp : v.phase = .unpad)
    (hsp : s.phase = .pad) (hd : i.dir = .enc) (hjd : j.dir = .dec) (hi : i.pad ≠ .zeros) (hj : j.pad ≠ .zeros)
    (hc : s.cbound = true) (hplat : v.plat = s.plat) (hn : v.nblk = encBlocks i s) {m : Mode}
    (hblk : ∀ k, k < encBlocks i s → v.outBlk .dec m k = plainBlock i s k) :
    ∃ w, step v = .next w ∧ EndedWell w ∧ w.outlen = s.inlen ∧
      ∀ a, a < s.inlen.toNat → w.byteAt .outbuf a = s.byteAt .inbuf a := by
  have hb : 1 ≤ s.blkSz := State.one_le_blkSz (hplat ▸ h.inv.platform) hc
  have hB : v.blkSz = (s.padStep i.pad).blkSz := by rw [State.padStep_blkSz, State.blkSz, hplat, State.blkSz]
  have hbytes : ∀ a, a < encBlocks i s * s.blkSz → v.byteAt .outbuf a = (s.padStep i.pad).padded a :=
    fun a => State.byteAt_eq_padded hB hb fun k hk => (hblk k hk).trans (State.padStep_pBlk hb hk).symm
  have hspaces := h.inv.spacesHold (h.operation (by simp [hvp])) (by simp [hvp])
  obtain ⟨-, -, -, -, hsize, -, w, hw, -, herr, hlen⟩ := countedPaddingRoundTrip i j s (s.padStep i.pad) v hd hi hsp
    (exec_pad hsp hd) hjd hj hvp hspaces h.inv.platform hplat hc hn hbytes
  cases (exec_unpad_of_spacesHold hvp hjd hspaces).symm.trans hw
  refine ⟨_, h.step_eq.trans hw, State.unpadStep_endedWell herr, hlen, fun a ha => ?_⟩
  have ha' : a < encBlocks i s * s.blkSz := lt_of_lt_of_le ha (hsize ▸ Nat.le_add_right ..)
  exact ((State.byteAt_unpadStep (.inr herr) a).trans (hbytes a ha')).trans (State.padded_of_lt ha)

theorem plainBlock_length (i : Instr) (s : State) (k : Nat) : (plainBlock i s k).length = s.blkSz := by
  simp [plainBlock]

theorem encSeed_length (i : Instr) (s : State) : (encSeed i s).length = s.blkSz := by simp [encSeed]

/-- Settles O59: the DEC operation recovers the padded message block by block, and UNPAD takes off the pad. -/
theorem encryptThenDecrypt : Obligations.EncryptThenDecrypt := by
  intro i j s u t n e hd hjd hm hpad hi hs hc he hdec hrun hidle hu hplat hivlen hiv hinlen hbytes
  have hb := hs.inv.one_le_blkSz hc.1
  have hblk : u.blkSz = s.blkSz := by simp [State.blkSz, hplat]
  obtain ⟨t', hrun', hend, hkeep, hlen, hseed, hcipher⟩ := hs.enc_end hc hd he
  obtain rfl := hs.end_unique hrun hrun' hidle hend.1
  obtain ⟨hcu, hnu⟩ := checksPass_of_result hm hc hb hplat hivlen (hinlen ▸ hlen)
  -- The length of a block, wherever the closed forms speak of one.
  have hE : ∀ x, x.length = s.blkSz → (e x).length = s.blkSz := fun x hx => State.cipherEnc_length (he x hx)
  have hP : ∀ k, k < encBlocks i s → (plainBlock i s k).length = s.blkSz := fun k _ => plainBlock_length i s k
  have hS := encSeed_length i s
  -- What the DEC operation reads: the ciphertext, the IV and, in RandomDelta, the seed.
  have hcBlk : ∀ k, k < encBlocks i s → u.cBlk i.mode k =
      Closed.encBlock i.mode e s.iv (encSeed i s) s.plat.ctrBase.val (plainBlock i s) k := fun k hk => by
    rw [← hcipher k hk]
    refine State.cBlk_eq_outBlk (hplat.trans hkeep.plat.symm) (fun a ha => hbytes a ?_) hk
    rwa [hlen, ← hkeep.seedOff, ← hkeep.blkSz]
  have hIv : u.iv = s.iv := by
    rw [State.iv, State.iv, hblk]
    exact State.memRead_congr fun x hx => by simpa using hiv x hx
  have hSeed : i.mode = .rd → u.memRead .inbuf 0 u.blkSz = encSeed i s := fun hrd => by
    rw [hblk, ← hS]
    refine State.memRead_eq fun x hx => ?_
    rw [hS] at hx
    rw [Nat.zero_add, hbytes x (by rw [hlen, State.seedOff, if_pos hrd]; omega), hseed hrd x hx]
  -- D of a block of the ciphertext.
  have hD : ¬ StreamMode i.mode → ∀ x, x.length = s.blkSz → (s.cipherDec (e x)).getD [] = x := fun hmode x hx => by
    rw [hdec hmode x hx, Option.getD_some]
  obtain ⟨v, adv, hvp, hvn, hplain⟩ := hu.dec_unpad (e := e) (d := fun y => (s.cipherDec y).getD []) hcu hjd
    (fun _ x hx => (State.cipherEnc_congr hplat x).trans (he x (hx.trans hblk)))
    (fun hmode k hk => by
      rw [hnu] at hk
      rw [hm] at hmode ⊢
      obtain ⟨x, hx, hy⟩ := Closed.encBlock_eq_answer (base := s.plat.ctrBase.val) hmode (hP k hk)
        (Closed.encFb_length s.iv_length hS hE hP hk.le)
      rw [hcBlk k hk, hy, State.cipherDec_congr hplat, hdec hmode x hx, Option.getD_some])
  obtain ⟨w, hw, hwell, hout, hmessage⟩ := adv.running.unpad_message
    (s := { s with phase := .pad }) hvp rfl hd hjd hi (hpad ▸ hi) hc.1
    (adv.goesOn.plat.trans hplat) (hvn.trans hnu) (m := i.mode) (fun k hk => by
      rw [← hm, hplain k (by rwa [hnu]), hm, hIv, hplat]
      exact Closed.decBlock_encBlock s.iv_length hS hSeed hE hD hP hcBlk hk)
  exact ⟨_, w, runs_trans adv.run (runs_succ hw (runs_zero w)), hwell, hout, hmessage⟩

end Sys2Proof.Machine
end

section
/-!
PROOFS. The block steps: a BLOCKS step of any command with an index pending, said once by the command's request, value
and feedback; from it the steps of the block-chaining modes (R140 to R146); and the combine of DEC.CBC.
-/

namespace Sys2Proof.Machine

/-! ## The index a block step takes (R203) -/

/-- R203: where the order is free, each pending index is taken under the choice of its place in PENDING. -/
theorem takesAny_of_freeOrder {d : Dir} {m : Mode} (hf : freeOrder d m = true) (s : State) : TakesAny d m s := by
  intro j hj
  have hlt : s.pending.idxOf j < s.pending.length := List.idxOf_lt_length_of_mem hj
  refine ⟨[s.pending.idxOf j], ?_⟩
  simp [State.nextIndex, hf, State.pick, Nat.mod_eq_of_lt hlt, List.getD, hlt]

/-- R203: where the order is fixed, the least pending index is the one taken. -/
theorem State.nextIndex_eq_of_least {s : State} {d : Dir} {m : Mode} (hf : freeOrder d m = false) {k : Nat}
    (hk : k ∈ s.pending) (hle : ∀ j ∈ s.pending, k ≤ j) : s.nextIndex d m = k :=
  Nat.le_antisymm (State.nextIndex_le hf hk) (hle _ (s.nextIndex_mem d m (List.ne_nil_of_mem hk)))

/-! ## What a block step does (R69, R224) -/

theorem State.writeBlock_effect (i : Instr) (s : State) (k : Nat) {v : ByteString} (fb : ByteString)
    (hv : v.length = s.blkSz) : BlockEffect i k v fb s (s.writeBlock i.dir i.mode k v fb) where
  written := fun a => hv ▸ s.byteAt_writeOut (s.outAddr i.dir i.mode k) v a
  feedback := rfl
  retired := fun j => by simp [State.writeBlock]
  undrawn := ⟨rfl, rfl, rfl, rfl⟩
  rest := rfl

theorem State.raise_cipher_ends (s : State) : EndsInCipherError s (s.raise .cipher) :=
  ⟨rfl, ⟨rfl, rfl, rfl, rfl⟩, fun _ => rfl, ⟨rfl, rfl⟩, rfl⟩

/-- The choice of R203 is no part of what a block step is said to do. -/
theorem BlockEffect.of_choose {i : Instr} {k : Nat} {v fb : ByteString} {s t : State} {d : Dir} {m : Mode}
    (h : BlockEffect i k v fb (s.choose d m) t) : BlockEffect i k v fb s t := by
  unfold State.choose at h
  split at h
  · exact ⟨h.written, h.feedback, h.retired, h.undrawn, h.rest⟩
  · exact h

theorem EndsInCipherError.of_choose {s t : State} {d : Dir} {m : Mode} (h : EndsInCipherError (s.choose d m) t) :
    EndsInCipherError s t := by
  unfold State.choose at h
  split at h
  · exact ⟨h.code, h.ended, h.unspecified, h.undrawn, h.rest⟩
  · exact h

section ready
variable {i : Instr} {s : State}

theorem BlockReady.nextIndex_mem (h : BlockReady i s) : s.nextIndex i.dir i.mode ∈ s.pending := by
  obtain ⟨-, hp, -⟩ := h
  exact s.nextIndex_mem i.dir i.mode hp

/-- When the cipher answers the command's request, the block step has the effect of the command's block rule. -/
theorem BlockReady.answered (h : BlockReady i s) {y : ByteString}
    (hy : blockRequest i (s.nextIndex i.dir i.mode) s = some y) :
    ∃ t, exec i s = .next t ∧ BlockEffect i (s.nextIndex i.dir i.mode) (blockValue i (s.nextIndex i.dir i.mode) s y)
      (blockFb i (s.nextIndex i.dir i.mode) s y) s t := by
  obtain ⟨hphase, hp, hholds⟩ := h
  have hlen := blockValue_length (k := s.nextIndex i.dir i.mode) (blockRequest_length hy)
    (State.fb_length_of_blockHolds hholds)
  obtain ⟨hnil, -⟩ | ⟨-, y', hy', hstep⟩ | ⟨-, hy', -⟩ := blocksStep_cases i s
  · exact absurd hnil hp
  · rw [blockRequest_choose, hy] at hy'
    cases hy'
    rw [blockValue_choose, blockFb_choose] at hstep
    exact ⟨_, (exec_blocks hphase hholds).trans (congrArg _ hstep),
      (State.writeBlock_effect i _ _ _ (by simpa using hlen)).of_choose⟩
  · rw [blockRequest_choose, hy] at hy'
    cases hy'

/-- When the cipher fails the command's request, the block step ends the operation (R224). -/
theorem BlockReady.failed (h : BlockReady i s) (hy : blockRequest i (s.nextIndex i.dir i.mode) s = none) :
    ∃ t, exec i s = .next t ∧ EndsInCipherError s t := by
  obtain ⟨hphase, hp, hholds⟩ := h
  obtain ⟨hnil, -⟩ | ⟨-, y', hy', -⟩ | ⟨-, -, hstep⟩ := blocksStep_cases i s
  · exact absurd hnil hp
  · rw [blockRequest_choose, hy] at hy'
    cases hy'
  · exact ⟨_, (exec_blocks hphase hholds).trans (congrArg _ hstep), (State.raise_cipher_ends _).of_choose⟩

end ready

/-! ## The block steps of ECB, CBC and PCBC (R140 to R143, R145, R146) -/

/-- Settles O18: the ECB rule writes the answer and keeps FB; ECB takes any pending index. -/
theorem encEcbBlockStep : Obligations.EncEcbBlockStep := fun _ _ s h =>
  ⟨h.nextIndex_mem, takesAny_of_freeOrder rfl s, fun _ hc => h.answered hc, h.failed⟩

/-- Settles O19: as for ENC.ECB, the request being `CipherDec` of the content block. -/
theorem decEcbBlockStep : Obligations.DecEcbBlockStep := fun _ _ s h =>
  ⟨h.nextIndex_mem, takesAny_of_freeOrder rfl s, fun _ hp => h.answered hp, h.failed⟩

/-- Settles O20: the rule writes the answer and leaves it in FB; the order is fixed. -/
theorem encCbcBlockStep : Obligations.EncCbcBlockStep := fun _ _ _ h =>
  ⟨h.nextIndex_mem, fun _ hj => State.nextIndex_le rfl hj, fun _ hc => h.answered hc, h.failed⟩

/-- Settles O21: the first phase of DEC.CBC writes the answer, keeps FB and takes any pending index. -/
theorem decCbcRawBlockStep : Obligations.DecCbcRawBlockStep := fun _ _ s h =>
  ⟨h.nextIndex_mem, takesAny_of_freeOrder rfl s, fun _ hy => h.answered hy, h.failed⟩

/-- Settles O23: the rule writes the answer C and leaves P ^ C in FB; the order is fixed. -/
theorem encPcbcBlockStep : Obligations.EncPcbcBlockStep := fun _ _ _ h =>
  ⟨h.nextIndex_mem, fun _ hj => State.nextIndex_le rfl hj, fun _ hc => h.answered hc, h.failed⟩

/-- Settles O24: the rule writes the answer XORed with FB and leaves P ^ C in FB; the order is fixed. -/
theorem decPcbcBlockStep : Obligations.DecPcbcBlockStep := fun _ _ _ h =>
  ⟨h.nextIndex_mem, fun _ hj => State.nextIndex_le rfl hj, fun _ hy => h.answered hy, h.failed⟩

/-! ## The combine of DEC.CBC (R144, R148, R202) -/

/-- Settles O22: the step writes the least pending block, combined with the IV or the ciphertext block before it. -/
theorem decCbcCombineStep : Obligations.DecCbcCombineStep := by
  intro opt pad s hphase hholds
  have hexec : exec (.decCbc opt pad) s = .next s.combineStep := exec_combine hphase rfl rfl hholds
  refine ⟨fun hnil => ?_, fun k hk hle => ⟨_, hexec, ?_⟩⟩
  · rw [hexec, State.combineStep, if_pos hnil]
  · have hleast := State.nextIndex_eq_of_least (d := .enc) (m := .cbc) rfl hk hle
    rw [s.combineStep_eq_writeBlock (List.ne_nil_of_mem hk) hleast.symm]
    have hlen := xor_length_of_blocks (s.outBlk_length .dec .cbc k)
      (Closed.prev_length s.iv_length (s.cBlk_length .cbc) k)
    cases k with
    | zero => exact State.writeBlock_effect (.decCbc opt pad) s 0 s.fb hlen
    | succ j => exact State.writeBlock_effect (.decCbc opt pad) s (j + 1) s.fb hlen

/-- R144: plaintext block `j + 1` is the raw block XORed with ciphertext block `j`. -/
theorem State.getBlk_combineStep {s : State} {j : Nat} (h : s.pending.min? = some (j + 1)) :
    s.combineStep.getBlk (j + 1) = xor (s.getBlk (j + 1)) (s.cBlk .cbc j) := by
  have hne : s.pending ≠ [] := fun hnil => by simp [hnil] at h
  have hleast : j + 1 = s.nextIndex .enc .cbc := by simp [State.nextIndex, freeOrder, h]
  have hlen : (xor (s.getBlk (j + 1)) (s.cBlk .cbc j)).length = s.blkSz :=
    xor_length_of_blocks (s.getBlk_length _) (s.cBlk_length ..)
  rw [s.combineStep_eq_writeBlock hne hleast]
  exact (s.outBlk_writeBlock (d := .dec) (m := .cbc) hlen (j + 1)).trans (if_pos rfl)

/-- Settles O60: both steps XOR one raw block, with ciphertext blocks that differ by `d`. -/
theorem cbcErrorMovesToNextBlock : Obligations.CbcErrorMovesToNextBlock := by
  intro opt pad s t d j hs ht hsholds htholds _ hsmin htmin _ hchange hraw
  refine ⟨_, _, exec_combine hs rfl rfl hsholds, exec_combine ht rfl rfl htholds, ?_⟩
  calc t.combineStep.getBlk (j + 1)
      = xor (t.getBlk (j + 1)) (t.cBlk .cbc j) := State.getBlk_combineStep htmin
    _ = xor (s.getBlk (j + 1)) (xor (s.cBlk .cbc j) d) := by rw [hraw, hchange]
    _ = xor (xor (s.getBlk (j + 1)) (s.cBlk .cbc j)) d := (xor_assoc ..).symm
    _ = xor (s.combineStep.getBlk (j + 1)) d := by rw [State.getBlk_combineStep hsmin]

end Sys2Proof.Machine
end

section
/-!
PROOFS. The keystream modes: the block steps of CFB, OFB and CTR (R160 to R163, R165, R166), and the arithmetic of the
counter block (R164).
-/

namespace Sys2Proof.Machine

/-! ## The block steps of CFB, OFB and CTR -/

/-- Settles O25: the rule writes C = P ^ E(FB) and leaves it in FB; the order is fixed. -/
theorem encCfbBlockStep : Obligations.EncCfbBlockStep := fun _ _ _ h =>
  ⟨h.nextIndex_mem, fun _ hj => State.nextIndex_le rfl hj, fun _ hy => h.answered hy, h.failed⟩

/-- Settles O26: the rule writes C ^ E(FB) and leaves the received C in FB; the order is fixed. -/
theorem decCfbBlockStep : Obligations.DecCfbBlockStep := fun _ _ _ h =>
  ⟨h.nextIndex_mem, fun _ hj => State.nextIndex_le rfl hj, fun _ hy => h.answered hy, h.failed⟩

/-- Settles O27: the rule leaves the answer E(FB) in FB and writes its XOR with P; the order is fixed. -/
theorem encOfbBlockStep : Obligations.EncOfbBlockStep := fun _ _ _ h =>
  ⟨h.nextIndex_mem, fun _ hj => State.nextIndex_le rfl hj, fun _ hy => h.answered hy, h.failed⟩

/-- Settles O28: as for ENC.OFB, the content block being the received C. -/
theorem decOfbBlockStep : Obligations.DecOfbBlockStep := fun _ _ _ h =>
  ⟨h.nextIndex_mem, fun _ hj => State.nextIndex_le rfl hj, fun _ hy => h.answered hy, h.failed⟩

/-- Settles O29: the request is the counter block, so FB plays no part and CTR takes any pending index. -/
theorem encCtrBlockStep : Obligations.EncCtrBlockStep := fun _ _ s h =>
  ⟨h.nextIndex_mem, takesAny_of_freeOrder rfl s, fun _ hy => h.answered hy, h.failed⟩

/-- Settles O30: as for ENC.CTR, the request being `CipherEnc` of the counter block in this direction too. -/
theorem decCtrBlockStep : Obligations.DecCtrBlockStep := fun _ _ s h =>
  ⟨h.nextIndex_mem, takesAny_of_freeOrder rfl s, fun _ hy => h.answered hy, h.failed⟩

/-! ## Big-endian numbers (R10) and the counter block (R164) -/

/-- R10: the last byte of a string is its least significant. -/
theorem be_append_singleton (b : ByteString) (x : Byte) : be (b ++ [x]) = be b * 256 + x.toNat := by
  simp [be]

/-- R10: the last byte of `tobe(n)` is `n` modulo 256, the bytes before it are those of `n / 256`. -/
theorem tobe_succ (len n : Nat) : tobe (len + 1) n = tobe len (n / 256) ++ [BitVec.ofNat 8 n] := by
  rw [tobe, List.range_succ, List.map_append]
  congr 1
  · refine List.map_congr_left fun k hk => ?_
    have hlt := List.mem_range.1 hk
    rw [Nat.div_div_eq_div_mul, ← pow_succ', show len + 1 - 1 - k = len - 1 - k + 1 by omega]
  · simp

/-- R10: `tobe` of a number too large for the block keeps it modulo `256 ^ len`. -/
theorem be_tobe (len n : Nat) : be (tobe len n) = n % 256 ^ len := by
  induction len generalizing n with
  | zero => simp [tobe, be, Nat.mod_one]
  | succ len ih =>
    calc be (tobe (len + 1) n)
        = n / 256 % 256 ^ len * 256 + n % 256 := by
          rw [tobe_succ, be_append_singleton, ih, BitVec.toNat_ofNat]
      _ = n % 256 ^ (len + 1) := by rw [pow_succ', Nat.mod_mul, Nat.mul_comm, Nat.add_comm]

/-- R10: `addbe` adds modulo `256 ^ B`, the carry running through the whole block. -/
theorem be_addbe (b : ByteString) (n : Nat) : be (addbe b n) = (be b + n) % 256 ^ b.length := by
  rw [addbe, be_tobe, Nat.mod_mod]

/-- Settles O43: the counter block is `addbe` on the IV, which is a block. -/
theorem counterArithmetic : Obligations.CounterArithmetic := fun s i =>
  ⟨s.ctr_length i, by rw [State.ctr, be_addbe, s.iv_length]⟩

end Sys2Proof.Machine
end

section
/-!
PROOFS. The RandomDelta mode: the seed steps of INIT (R180, R182) and the block steps (R181, R183).
-/

namespace Sys2Proof.Machine

/-! ## The seed steps (R180, R182, R199) -/

/-- R199: INIT makes every index below NBLK pending. -/
theorem State.mem_initStep_pending (s : State) (d : Dir) (m : Mode) (k : Nat) :
    k ∈ (s.initStep d m).pending ↔ k < s.nblk := List.mem_range

theorem State.memRead_getElem? (s : State) (sp : Space) (a : Nat) {n k : Nat} (hk : k < n) :
    (s.memRead sp a n)[k]? = some (s.byteAt sp (a + k)) := by
  simp [State.memRead, hk]

/-- R180: after INIT of ENC.RD the first block of OUTBUF is the bytes drawn, and the rest is as it was. -/
theorem State.byteAt_initStep_encRd (s : State) (a : Nat) :
    (s.initStep .enc .rd).byteAt .outbuf a = if a < s.blkSz then s.rndAt a else s.byteAt .outbuf a := by
  split
  · next ha => rw [s.byteAt_initStep_seed ha, List.getD, s.rndBytes_getElem? ha, Option.getD_some]
  · next ha => exact State.byteAt_initStep_outside fun ⟨_, _, hlt⟩ => ha hlt

/-- Settles O16: the seed is the next B bytes of the port, put in FB and at the start of OUTBUF. -/
theorem initStepDrawsSeed : Obligations.InitStepDrawsSeed := by
  intro opt pad s hphase hspaces
  refine ⟨s.initStep .enc .rd, exec_init hphase hspaces, s.rndBytes_length _, fun k hk => ?_,
    s.byteAt_initStep_encRd, s.rndAt_drop s.blkSz, rfl, s.mem_initStep_pending .enc .rd, rfl⟩
  exact s.rndBytes_getElem? hk

/-- Settles O17: the seed is the first block of INBUF, put in FB; no port is used and OUTBUF is not written. -/
theorem initStepReadsSeed : Obligations.InitStepReadsSeed := by
  intro opt pad s hphase hspaces
  refine ⟨s.initStep .dec .rd, exec_init hphase hspaces, s.memRead_length .inbuf 0 _, fun k hk => ?_,
    s.mem_initStep_pending .dec .rd, rfl⟩
  exact (s.memRead_getElem? .inbuf 0 hk).trans (by rw [Nat.zero_add])

/-! ## The block steps (R181, R183) -/

/-- Settles O31: the rule writes the answer C = E(P ^ FB) and XORs it into FB; the order is fixed. -/
theorem encRdBlockStep : Obligations.EncRdBlockStep := fun _ _ _ h =>
  ⟨h.nextIndex_mem, fun _ hj => State.nextIndex_le rfl hj, fun _ hc => h.answered hc, h.failed⟩

/-- Settles O32: the rule writes D(C) ^ FB and XORs the received C into FB; the order is fixed. -/
theorem decRdBlockStep : Obligations.DecRdBlockStep := fun _ _ _ h =>
  ⟨h.nextIndex_mem, fun _ hj => State.nextIndex_le rfl hj, fun _ hy => h.answered hy, h.failed⟩

end Sys2Proof.Machine
end

section
/-!
PROOFS. The sequencer, step by step: the acceptance of a command word (R190), CHECK (R191 to R194), INIT (R199), the end
of BLOCKS (R201), and the table of phases (R200).
-/

namespace Sys2Proof.Machine

/-! ## Acceptance (R190) -/

/-- Settles O7: the step is `writeReg` of CMD, which accepts the low 16 bits when the engine is idle. -/
theorem commandAcceptance : Obligations.CommandAcceptance := by
  intro s v rest h
  rw [step_of_move h nofun]
  refine ⟨fun hb => ?_, fun hb => ?_⟩
  · have hw : v.setWidth 16 = v.extractLsb' 0 16 := BitVec.setWidth_eq_extractLsb' (by decide)
    simp [hostTurn, State.writeReg, hb, State.accept, hw]
  · have hbusy : State.busy { s with host := { s.host with todo := rest } } = true := hb
    exact congrArg Host.Outcome.next (State.writeReg_of_busy hbusy 0 v)

/-- Settles O8: in IDLE the command's word is accepted, and it decodes to the command. -/
theorem execOnIdleEngineAccepts : Obligations.ExecOnIdleEngineAccepts := fun i s h =>
  ⟨s.accept (encode i), exec_idle h, decodeEncodeRoundTrip i, rfl⟩

/-! ## CHECK (R191 to R194) -/

/-- R192: with no cipher bound CHECK raises ConfigurationError. -/
theorem State.checkStep_unbound {s : State} (hc : s.cbound = false) (d : Dir) (m : Mode) :
    s.checkStep d m = s.raise .configuration := if_pos hc

/-- R193: CHECK of a DEC command raises InputError. -/
theorem State.checkStep_input {s : State} {m : Mode} (hc : s.cbound = true) (hin : s.inputBad m = true) :
    s.checkStep .dec m = s.raise .input := by
  simp [State.checkStep, hc, hin]

/-- R194: CHECK raises IVError when the conditions before it hold of the command. -/
theorem State.checkStep_iv {s : State} {d : Dir} {m : Mode} (hc : s.cbound = true)
    (hin : d = .dec → s.inputBad m = false) (hiv : s.ivBad m = true) : s.checkStep d m = s.raise .iv := by
  have hnot : ¬ (d = .dec ∧ s.inputBad m = true) := fun ⟨hd, hbad⟩ => by simp [hin hd] at hbad
  simp [State.checkStep, hc, hnot, hiv]

/-- R91, R92: the OPC and MODE of a command word, as numbers. -/
theorem opc_mode_of_decode {w : Word} {i : Instr} (h : decode w = .ok i) :
    w.toNat / 4096 = i.dir.code.toNat ∧ w.toNat / 16 % 16 = i.mode.code.toNat := by
  rw [← encode_of_decode h, ← opcField_toNat, ← modeField_toNat, opcField_encode, modeField_encode]
  exact ⟨rfl, rfl⟩

theorem dirCode_eq_one_iff (d : Dir) : d.code.toNat = 1 ↔ d = .enc := by cases d <;> decide

theorem dirCode_eq_two_iff (d : Dir) : d.code.toNat = 2 ↔ d = .dec := by cases d <;> decide

theorem modeCode_eq_six_iff (m : Mode) : m.code.toNat = 6 ↔ m = .rd := by cases m <;> decide

/-- R194: whether a mode needs an IV, by its number. -/
theorem State.needsIv_iff (s : State) (m : Mode) : s.needsIv m = true ↔
    (1 ≤ m.code.toNat ∧ m.code.toNat ≤ 5) ∨ (m.code.toNat = 6 ∧ s.plat.rdNeedsIv = true) := by
  cases m <;> simp [State.needsIv, Mode.code]

theorem State.ivBad_iff (s : State) (m : Mode) :
    s.ivBad m = true ↔ s.needsIv m = true ∧ s.ivlen.toNat ≠ s.blkSz := by
  simp [State.ivBad]

theorem State.inputBad_iff (s : State) (m : Mode) : s.inputBad m = true ↔
    s.inlen.toNat % s.blkSz ≠ 0 ∨ (m = .rd ∧ s.inlen.toNat < s.blkSz) := by
  simp [State.inputBad]

/-- R97, R220: the CHECK step of an illegal word. -/
theorem step_check_illegal {s : State} {e : DecodeError} (ha : s.host.todo = []) (hb : s.busy = true)
    (hp : s.phase = .check) (he : decode s.ctx = .error e) : step s = .next (s.raise .configuration) := by
  rw [step_of_no_move ha, engineTurn_of_illegal hb he]
  simp [State.illegalStep, hp]

/-- R191: the CHECK step of a legal word. -/
theorem step_check_legal {s : State} {i : Instr} (ha : s.host.todo = []) (hb : s.busy = true) (hp : s.phase = .check)
    (hi : decode s.ctx = .ok i) : step s = .next (s.checkStep i.dir i.mode) := by
  rw [step_of_no_move ha, engineTurn_of_decoded hb hi, exec_check hp]

/-- Settles O9: an illegal word meets the first group of conditions; for a legal one they are those of `checkStep`. -/
theorem checkStepOutcome : Obligations.CheckStepOutcome := by
  intro s ha hb hp opc mode pad len needsIv
  have hlegal : (∃ i, decode s.ctx = .ok i) ↔ (opc = 1 ∨ opc = 2) ∧ mode ≤ 6 ∧ pad ≤ 3 :=
    decodeRefusesExactlyIllegalWords s.ctx
  cases hi : decode s.ctx with
  | error e =>
    have hbad : ¬ ((opc = 1 ∨ opc = 2) ∧ mode ≤ 6 ∧ pad ≤ 3) := fun h => by
      obtain ⟨i, hok⟩ := hlegal.2 h
      cases hi.symm.trans hok
    exact ⟨fun _ => step_check_illegal ha hb hp hi, fun h => absurd (.inr (by omega)) h⟩
  | ok i =>
    have hok := hlegal.1 ⟨i, hi⟩
    obtain ⟨hopc, hmode⟩ : opc = i.dir.code.toNat ∧ mode = i.mode.code.toNat := opc_mode_of_decode hi
    have henc : opc = 1 ↔ i.dir = .enc := hopc ▸ dirCode_eq_one_iff i.dir
    have hdec : opc = 2 ↔ i.dir = .dec := hopc ▸ dirCode_eq_two_iff i.dir
    have hrd : mode = 6 ↔ i.mode = .rd := hmode ▸ modeCode_eq_six_iff i.mode
    have hiv : s.ivBad i.mode = true ↔ needsIv ∧ s.ivlen.toNat ≠ s.blkSz := by
      rw [s.ivBad_iff, s.needsIv_iff, ← hmode]
    have hin : s.inputBad i.mode = true ↔ len % s.blkSz ≠ 0 ∨ (mode = 6 ∧ len < s.blkSz) := by
      rw [s.inputBad_iff, hrd]
    rw [step_check_legal ha hb hp hi]
    refine ⟨fun h => ?_, fun h => ?_⟩
    · have hc : s.cbound = false := h.resolve_right (by omega)
      exact congrArg _ (State.checkStep_unbound hc _ _)
    have hc : s.cbound = true := by simpa using (not_or.1 h).1
    refine ⟨fun h => ?_, fun h => ?_⟩
    · rw [hdec.1 h.1, State.checkStep_input hc (hin.2 h.2)]
      rfl
    have hin' : i.dir = .dec → s.inputBad i.mode = false := fun hd =>
      Bool.eq_false_iff.2 fun hbad => h ⟨hdec.2 hd, hin.1 hbad⟩
    refine ⟨fun h => ?_, fun h => ?_⟩
    · rw [State.checkStep_iv hc hin' (hiv.2 h)]
      rfl
    have hiv' : s.ivBad i.mode = false := Bool.eq_false_iff.2 (mt hiv.1 h)
    refine ⟨fun h1 => ?_, fun h2 => ?_⟩
    · rw [henc.1 h1, State.checkStep_enc hc hiv']
    · rw [hdec.1 h2, State.checkStep_dec hc (hin' (hdec.1 h2)) hiv']
      simp only [hrd]
      rfl

/-! ## INIT (R199) -/

/-- R199: what INIT does in every mode but RandomDelta. -/
theorem State.initStep_of_not_rd (s : State) {d : Dir} {m : Mode} (hm : m ≠ .rd) : s.initStep d m =
    { s with fb := if usesFb d m = true then s.iv else s.fb, pending := List.range s.nblk, phase := .blocks } := by
  obtain ⟨hu, -, h⟩ | ⟨hu, -, h⟩ | ⟨-, hrd, -⟩ | ⟨-, hrd, -⟩ := s.loadFb_cases d m
  · simp [State.initStep, h, hu]
  · simp [State.initStep, h, hu, State.setFb]
  · exact absurd hrd hm
  · exact absurd hrd hm

/-- R36: outside RandomDelta, the commands whose block rule reads FB. -/
theorem usesFb_iff {d : Dir} {m : Mode} (hm : m ≠ .rd) :
    usesFb d m = true ↔ m = .pcbc ∨ m = .cfb ∨ m = .ofb ∨ (m = .cbc ∧ d = .enc) := by
  cases d <;> cases m <;> simp_all [usesFb]

/-- Settles O15: INIT loads the IV into FB exactly where the block rule reads FB. -/
theorem initStepLoadsFeedback : Obligations.InitStepLoadsFeedback := by
  intro i s hm hp hs
  have hinit := s.initStep_of_not_rd (d := i.dir) hm
  refine ⟨s.initStep i.dir i.mode, exec_init hp hs, fun h => ?_, fun h => ?_, s.mem_initStep_pending _ _, ?_⟩
  · rw [hinit, if_pos ((usesFb_iff hm).2 h)]
    exact ⟨s.iv_length, fun k hk => (s.memRead_getElem? .ivmem 0 hk).trans (by rw [Nat.zero_add])⟩
  · have hu : ¬ usesFb i.dir i.mode = true := by
      rw [usesFb_iff hm]
      rintro (h' | h' | h' | ⟨h', hd⟩) <;> simp_all
    rw [hinit, if_neg hu]
  · rw [hinit]

/-! ## The end of BLOCKS (R201) -/

theorem exec_blocks_closes {i : Instr} {s : State} (hp : s.phase = .blocks) (hn : s.pending = [])
    (hs : s.blockHolds i.dir i.mode = true) : exec i s = .next (s.closeBlocks i.dir i.mode) := by
  rw [exec_blocks hp hs, State.blocksStep, if_pos hn]

theorem State.closeBlocks_cbc (s : State) :
    s.closeBlocks .dec .cbc = { s with pending := List.range s.nblk, phase := .combine } := rfl

theorem State.closeBlocks_unpad (s : State) {m : Mode} (hm : m ≠ .cbc) :
    s.closeBlocks .dec m = { s with phase := .unpad } := if_neg hm

/-- Settles O33: with no index pending an ENC operation finishes, and OUTLEN holds its length, which fits OUTBUF. -/
theorem encClosingStep : Obligations.EncClosingStep := by
  intro i s hd hp hn hs hw
  refine ⟨s.closeBlocks i.dir i.mode, exec_blocks_closes hp hn hs, ?_, ?_⟩ <;> rw [hd] at hs ⊢
  · exact State.finish_outlen_toNat hw ((State.result_fits (State.spacesHold_of_blockHolds hs)).2 rfl)
  · rfl

/-- Settles O34: with no index pending a DEC operation goes to COMBINE in CBC and to UNPAD otherwise. -/
theorem decClosingStep : Obligations.DecClosingStep := by
  intro i s hd hp hn hs
  have hexec := exec_blocks_closes hp hn hs
  rw [hd] at hexec
  refine ⟨fun hm => ⟨_, hexec, ?_⟩, fun hm => ?_⟩
  · rw [hm, State.closeBlocks_cbc]
    exact ⟨fun k => List.mem_range, rfl⟩
  · rw [hexec, s.closeBlocks_unpad hm]

/-! ## The table of phases (R200) -/

/-- R201: the rows of the table that leave BLOCKS with no index pending. -/
theorem phaseStep_closeBlocks {i : Instr} {s : State} (hp : s.phase = .blocks) (hn : s.pending = []) :
    phaseStep i s (s.closeBlocks i.dir i.mode) := by
  unfold phaseStep
  rw [hp]
  cases hd : i.dir with
  | enc => exact .inr ⟨hn, rfl, rfl⟩
  | dec =>
    by_cases hm : i.mode = .cbc
    · rw [hm, s.closeBlocks_cbc]
      exact ⟨hn, rfl, rfl⟩
    · rw [s.closeBlocks_unpad hm]
      exact ⟨hn, rfl, hm⟩

/-- Settles O39: in each phase, everything the step can do is a row of the table. -/
theorem phaseTransitionsComplete : Obligations.PhaseTransitionsComplete := by
  intro i s t h
  obtain ⟨hp, rfl⟩ | ⟨hp, rfl⟩ | ⟨hp, hd, rfl⟩ | ⟨hp, -, rfl⟩ | ⟨hp, -, rfl⟩ | ⟨hp, hd, hm, -, rfl⟩ |
    ⟨hp, hd, -, rfl⟩ := exec_cases h
  · simp [phaseStep, hp]
  · obtain ⟨e, he, ht⟩ | ⟨-, -, -, ⟨hd, ht⟩ | ⟨hd, ht⟩⟩ := s.checkStep_cases i.dir i.mode <;> rw [ht]
    · rcases he with rfl | rfl | rfl <;> simp [phaseStep, hp, EngineError.code]
    · simp [phaseStep, hp, hd]
    · simp [phaseStep, hp, hd]
  · simp [phaseStep, hp, hd, State.padStep]
  · simp [phaseStep, hp, State.initStep]
  · obtain ⟨hn, ht⟩ | ⟨hne, y, -, ht⟩ | ⟨hne, -, ht⟩ := blocksStep_cases i s <;> rw [ht]
    · exact phaseStep_closeBlocks hp hn
    · simp [phaseStep, hp, hne]
    · simp [phaseStep, hp, hne, EngineError.code]
  · obtain ⟨hn, ht⟩ | ⟨k, hk, v, -, ht⟩ := s.combineStep_cases <;> rw [ht]
    · simp [phaseStep, hp, hn, hd, hm]
    · simp [phaseStep, hp, hd, hm, State.writeBlock, List.ne_nil_of_mem hk]
  · obtain ⟨len, -, ht⟩ | ht := s.unpadStep_cases i.pad <;> rw [ht]
    · simp [phaseStep, hp, hd]
    · simp [phaseStep, hp, hd, EngineError.code]

end Sys2Proof.Machine
end

section
/-!
PROOFS. Whole operations, to their end: the closed forms of R205 in OUTBUF, byte by byte, and the UNPAD step.
-/

namespace Sys2Proof.Machine

/-! ## The closed forms, byte by byte (R205) -/

/-- R69: byte `j` of block `k` of the result. -/
theorem State.byteAt_eq_outBlk (s : State) (d : Dir) (m : Mode) (k : Nat) {j : Nat} (hj : j < s.blkSz) :
    s.byteAt .outbuf (s.outAddr d m k + j) = (s.outBlk d m k).getD j 0 :=
  (s.memRead_getD .outbuf _ _ j hj).symm

/-- R69: byte `a` of the result's blocks is byte `a mod B` of block `a div B`. -/
theorem State.byteAt_result (s : State) (d : Dir) (m : Mode) (hb : 1 ≤ s.blkSz) (a : Nat) :
    s.byteAt .outbuf (s.outAddr d m 0 + a) = (s.outBlk d m (a / s.blkSz)).getD (a % s.blkSz) 0 := by
  rw [← s.byteAt_eq_outBlk d m _ (Nat.mod_lt a hb), s.outAddr_eq d m (a / s.blkSz), Nat.add_assoc, Nat.div_add_mod']

/-- R69: the result of a DEC operation begins at the start of OUTBUF. -/
theorem State.byteAt_decResult (s : State) (m : Mode) (hb : 1 ≤ s.blkSz) (a : Nat) :
    s.byteAt .outbuf a = (s.outBlk .dec m (a / s.blkSz)).getD (a % s.blkSz) 0 := by
  simpa [State.outAddr] using s.byteAt_result .dec m hb a

/-- Settles O56: NBLK + 4 steps end the operation with the closed form, block by block. -/
theorem encOperationClosedForm : Obligations.EncOperationClosedForm := by
  intro i s e hd hs hc he
  obtain ⟨t, hrun, hend, hkeep, hlen, hseed, hblk⟩ := hs.enc_end hc hd he
  refine ⟨t, hrun, hend, hlen, padLen_blocks _ _ _ (hs.inv.one_le_blkSz hc.1), hseed, fun k j hk hj => ?_⟩
  rw [← hblk k hk, ← t.byteAt_eq_outBlk _ _ _ (hkeep.blkSz.symm ▸ hj), hkeep.outAddr]
  rfl

/-- R125: the length UNPAD gives depends on the content alone. -/
theorem unpadLen_congr (p : PadScheme) (b : Nat) {n : Nat} {t m : Nat → Byte} (h : ∀ a, a < n → t a = m a) :
    unpadLen p b n t = unpadLen p b n m := by
  by_cases hp : p = .zeros
  · subst hp
    exact congrArg some (stripZeros_congr h)
  · rw [unpadLen_of_counted hp, unpadLen_of_counted hp, stripCounted, stripCounted]
    split
    · rfl
    · next hn => rw [h (n - 1) (Nat.sub_one_lt hn)]

/-- R125: UNPAD is the last step of a DEC operation. -/
theorem Running.step_unpad {i : Instr} {s : State} (h : Running i s) (hp : s.phase = .unpad) :
    step s = .next (s.unpadStep i.pad) := by
  have o := h.operation (by simp [hp])
  exact h.step_eq.trans (exec_unpad_of_spacesHold hp (o.unpadPhase hp) (h.inv.spacesHold o (by simp [hp])))

/-- Settles O57: the operation reaches UNPAD with the closed form in OUTBUF, and UNPAD ends it as its rule says. -/
theorem decOperationClosedForm : Obligations.DecOperationClosedForm := by
  intro i s e d hdir hs hc he hd nblk plain
  have hb := hs.inv.one_le_blkSz hc.1
  obtain ⟨v, adv, hvp, hn, hblk⟩ := hs.dec_unpad hc hdir he fun hm k _ => hd hm _ (s.cBlk_length _ k)
  have hB : v.blkSz = s.blkSz := adv.goesOn.blkSz
  have hbytes : ∀ a, a < nblk * s.blkSz → v.byteAt .outbuf a = plain a := fun a ha => by
    rw [v.byteAt_decResult i.mode (hB ▸ hb), hB, hblk _ ((Nat.div_lt_iff_lt_mul hb).2 ha)]
  have hsize : v.nblk * v.blkSz = nblk * s.blkSz := congrArg₂ (· * ·) hn hB
  have hlen : unpadLen i.pad v.blkSz (v.nblk * v.blkSz) (v.byteAt .outbuf) =
      unpadLen i.pad s.blkSz (nblk * s.blkSz) plain := by
    rw [hsize, hB]
    exact unpadLen_congr _ _ hbytes
  have hspaces := adv.running.inv.spacesHold (adv.running.operation (by simp [hvp])) (by simp [hvp])
  refine ⟨v.unpadStep i.pad, ?_, fun len h => ?_, fun h => ?_⟩
  · have := runs_trans adv.run (runs_succ (adv.running.step_unpad hvp) (runs_zero _))
    rwa [ite_add] at this
  · rw [State.unpadStep_of_some (hlen.trans h)]
    have hle : len ≤ nblk * s.blkSz := unpadLen_le h
    have hfit : len ≤ v.outCap := (hle.trans_eq hsize.symm).trans (State.result_fits hspaces).1
    exact ⟨⟨rfl, rfl, rfl, rfl⟩, State.finish_outlen_toNat adv.running.inv.platform hfit,
      fun a ha => hbytes a (ha.trans_le hle)⟩
  · rw [State.unpadStep_of_none (hlen.trans h)]
    exact ⟨rfl, rfl, rfl, rfl⟩

end Sys2Proof.Machine
end

section
/-!
PROOFS. Every operation ends (R206): a bound on the engine steps left falls with each of them, also while the host
waits.
-/

namespace Sys2Proof.Machine

/-! ## The steps left -/

/-- R206: a bound on the engine steps left in an operation. Before PAD or CHECK has set NBLK it is at most OUTCAP. -/
def State.stepsLeft (s : State) : Nat :=
  match s.phase with
  | .idle => 0
  | .check => 2 * s.outCap + 6
  | .pad => 2 * s.outCap + 5
  | .init => 2 * s.nblk + 4
  | .blocks => s.pending.length + s.nblk + 3
  | .combine => s.pending.length + 2
  | .unpad => 1

/-- An engine step brings the operation nearer to its end, and an operation that has ended has DONE = 1. -/
structure Progress (s t : State) : Prop where
  fewer : t.stepsLeft < s.stepsLeft
  done : t.phase = .idle → t.done = true

/-- An operation that goes on has fewer steps left. -/
theorem Progress.of_fewer {s t : State} (hp : t.phase ≠ .idle) (h : t.stepsLeft < s.stepsLeft) : Progress s t :=
  ⟨h, fun hidle => absurd hidle hp⟩

theorem State.stepsLeft_pos {s : State} (hp : s.phase ≠ .idle) : 0 < s.stepsLeft := by
  unfold State.stepsLeft
  split
  · next h => exact absurd h hp
  all_goals omega

/-- R225, R226: both endings are progress. -/
theorem Progress.raise {s t : State} (hp : s.phase ≠ .idle) (e : EngineError) : Progress s (t.raise e) :=
  ⟨State.stepsLeft_pos hp, fun _ => rfl⟩

theorem Progress.finish {s t : State} (hp : s.phase ≠ .idle) (n : Nat) : Progress s (t.finish n) :=
  ⟨State.stepsLeft_pos hp, fun _ => rfl⟩

/-- R33, R66: once NBLK is set, OUTBUF has room for as many blocks. -/
theorem State.Inv.nblk_le_outCap {s : State} {i : Instr} (h : s.Inv) (o : s.OperationInv i) (hp : s.phase ≠ .pad) :
    s.nblk ≤ s.outCap :=
  (Nat.le_mul_of_pos_right _ (h.one_le_blkSz o.bound)).trans (State.result_fits (h.spacesHold o hp)).1

/-- R34: PENDING has at most NBLK indices. -/
theorem State.Inv.pending_length_le {s : State} {i : Instr} (h : s.Inv) (o : s.OperationInv i)
    (hp : s.phase = .blocks ∨ s.phase = .combine) : s.pending.length ≤ s.nblk := by
  have hnodup : s.pending.Nodup := h.pendingForm.imp Nat.ne_of_lt
  have hsub : s.pending ⊆ List.range s.nblk := fun k hk => List.mem_range.2 (o.pendingBelow hp k hk)
  simpa using (List.Nodup.subperm hnodup hsub).length_le

theorem State.Inv.stepsLeft_le {s : State} (h : s.Inv) : s.stepsLeft ≤ 2 * s.outCap + 6 := by
  by_cases hidle : s.phase = .idle
  · simp [State.stepsLeft, hidle]
  by_cases hcheck : s.phase = .check
  · simp [State.stepsLeft, hcheck]
  obtain ⟨i, -, o⟩ := h.operation hidle hcheck
  cases hp : s.phase with
  | idle => exact absurd hp hidle
  | check => exact absurd hp hcheck
  | pad => simp [State.stepsLeft, hp]
  | init =>
    have hn := h.nblk_le_outCap o (by simp [hp])
    simp only [State.stepsLeft, hp]
    omega
  | blocks =>
    have hn := h.nblk_le_outCap o (by simp [hp])
    have hl := h.pending_length_le o (.inl hp)
    simp only [State.stepsLeft, hp]
    omega
  | combine =>
    have hn := h.nblk_le_outCap o (by simp [hp])
    have hl := h.pending_length_le o (.inr hp)
    simp only [State.stepsLeft, hp]
    omega
  | unpad => simp [State.stepsLeft, hp]

/-! ## An engine step is progress -/

section progress
variable {s : State} {i : Instr}

theorem checkStep_progress (h : s.Inv) (hi : decode s.ctx = .ok i) (hp : s.phase = .check) :
    Progress s (s.checkStep i.dir i.mode) := by
  have hinv := h.checkStep hi hp
  obtain ⟨e, -, ht⟩ | ⟨-, -, -, ⟨-, ht⟩ | ⟨-, ht⟩⟩ := s.checkStep_cases i.dir i.mode <;> rw [ht] at hinv ⊢
  · exact .raise (by simp [hp]) e
  · exact .of_fewer nofun (by simp [State.stepsLeft, hp, State.outCap])
  · refine .of_fewer nofun ?_
    have hn := hinv.nblk_le_outCap (hinv.operationOf hi nofun nofun) nofun
    simp only [State.stepsLeft, hp, State.outCap] at hn ⊢
    omega

theorem padStep_progress (h : s.Inv) (hi : decode s.ctx = .ok i) (hp : s.phase = .pad) (hd : i.dir = .enc) :
    Progress s (s.padStep i.pad) := by
  have hinv := h.padStep hi hp hd
  have hn := hinv.nblk_le_outCap (hinv.operationOf hi nofun nofun) nofun
  refine .of_fewer nofun ?_
  have hinit : (s.padStep i.pad).phase = .init := rfl
  have hcap : (s.padStep i.pad).outCap = s.outCap := rfl
  simp only [State.stepsLeft, hp, hinit]
  omega

theorem initStep_progress (hp : s.phase = .init) (d : Dir) (m : Mode) : Progress s (s.initStep d m) := by
  have hn : (s.initStep d m).nblk = s.nblk := (s.loadFb_keepsSize d m).nblk
  have hl : (s.initStep d m).pending.length = s.nblk := List.length_range
  have hb : (s.initStep d m).phase = .blocks := rfl
  refine .of_fewer nofun ?_
  simp only [State.stepsLeft, hp, hb, hn, hl]
  omega

theorem closeBlocks_progress (hp : s.phase = .blocks) (d : Dir) (m : Mode) : Progress s (s.closeBlocks d m) := by
  obtain ⟨-, ht⟩ | ⟨-, -, ht⟩ | ⟨-, ht⟩ := s.closeBlocks_cases d m <;> rw [ht]
  · exact .finish (by simp [hp]) _
  · refine .of_fewer nofun ?_
    simp only [State.stepsLeft, hp, List.length_range]
    omega
  · refine .of_fewer nofun ?_
    simp only [State.stepsLeft, hp]
    omega

/-- A block written for a pending index is one step less, in BLOCKS and in COMBINE. -/
theorem writeBlock_progress (h : s.Inv) (hp : s.phase = .blocks ∨ s.phase = .combine) {k : Nat} (hk : k ∈ s.pending)
    (d : Dir) (m : Mode) (v fb : ByteString) : Progress s (s.writeBlock d m k v fb) := by
  have hl := h.length_retire hk
  have hl' : (s.writeBlock d m k v fb).pending = (s.retire k).pending := rfl
  have hp' : (s.writeBlock d m k v fb).phase = s.phase := rfl
  have hn : (s.writeBlock d m k v fb).nblk = s.nblk := rfl
  refine .of_fewer (hp' ▸ (Phase.ne_of_blocks_or_combine hp).1) ?_
  rcases hp with hp | hp <;> simp only [State.stepsLeft, hp', hp, hl', hn] <;> omega

theorem blocksStep_progress (h : s.Inv) (hp : s.phase = .blocks) :
    Progress s (s.blocksStep i.dir i.mode (ruleOf i)) := by
  obtain ⟨-, ht⟩ | ⟨hne, y, -, ht⟩ | ⟨-, -, ht⟩ := blocksStep_cases i s <;> rw [ht]
  · exact closeBlocks_progress hp _ _
  · have hc : (s.choose i.dir i.mode).stepsLeft = s.stepsLeft := by simp [State.stepsLeft]
    have hw := writeBlock_progress (h.choose i.dir i.mode) (.inl (by simpa using hp))
      (by simpa using s.nextIndex_mem i.dir i.mode hne) i.dir i.mode
      (blockValue i (s.nextIndex i.dir i.mode) (s.choose i.dir i.mode) y)
      (blockFb i (s.nextIndex i.dir i.mode) (s.choose i.dir i.mode) y)
    exact ⟨hc ▸ hw.fewer, hw.done⟩
  · exact .raise (by simp [hp]) .cipher

theorem combineStep_progress (h : s.Inv) (hp : s.phase = .combine) : Progress s s.combineStep := by
  obtain ⟨-, ht⟩ | ⟨k, hk, v, -, ht⟩ := s.combineStep_cases <;> rw [ht]
  · exact .of_fewer nofun (by simp [State.stepsLeft, hp])
  · exact writeBlock_progress h (.inr hp) hk ..

theorem unpadStep_progress (hp : s.phase = .unpad) (p : PadScheme) : Progress s (s.unpadStep p) := by
  obtain ⟨len, -, ht⟩ | ht := s.unpadStep_cases p <;> rw [ht]
  · exact .finish (by simp [hp]) len
  · exact .raise (by simp [hp]) .padding

/-- An engine step of the command in CTX is progress, in every phase. -/
theorem exec_progress {t : State} (h : s.Inv) (hi : decode s.ctx = .ok i) (hs : s.phase ≠ .idle)
    (ht : exec i s = .next t) : Progress s t := by
  obtain ⟨hp, -⟩ | ⟨hp, rfl⟩ | ⟨hp, hd, rfl⟩ | ⟨hp, -, rfl⟩ | ⟨hp, -, rfl⟩ | ⟨hp, -, -, -, rfl⟩ | ⟨hp, -, -, rfl⟩ :=
    exec_cases ht
  · exact absurd hp hs
  · exact checkStep_progress h hi hp
  · exact padStep_progress h hi hp hd
  · exact initStep_progress hp _ _
  · exact blocksStep_progress h hp
  · exact combineStep_progress h hp
  · exact unpadStep_progress hp _

end progress

/-- An engine step of a busy engine, of a legal or an illegal word, is progress and leaves the host as it is. -/
theorem State.Inv.engineTurn_progress {s t : State} (h : s.Inv) (hb : s.busy = true)
    (ht : Machine.engineTurn s = .next t) : Progress s t ∧ t.host = s.host := by
  have hs : s.phase ≠ .idle := fun hp => by simp [h.idleIff.1 hp] at hb
  cases hd : decode s.ctx with
  | ok i =>
    have hexec := (engineTurn_of_decoded hb hd).symm.trans ht
    exact ⟨exec_progress h hd hs hexec, (exec_keepsInputs hs hexec).host⟩
  | error e =>
    rw [State.illegalStep_next ((engineTurn_of_illegal hb hd).symm.trans ht)]
    exact ⟨.raise hs .configuration, rfl⟩

/-! ## The end of an operation (R206) -/

/-- With no host move pending, or a WAIT, a step of a busy engine is the engine's. -/
theorem step_of_busy {s : State} (hb : s.busy = true) (hh : s.host.todo = [] ∨ s.host.todo.head? = some .wait) :
    step s = engineTurn s := by
  rcases hh with hh | hh
  · exact step_of_no_move hh
  · obtain ⟨rest, hrest⟩ := List.head?_eq_some_iff.1 hh
    exact step_of_waiting hrest hb

/-- R206: a busy engine reaches the end of its operation in as many steps as are left, by induction on their number. -/
theorem State.Inv.operation_ends {s : State} (h : s.Inv) (hb : s.busy = true)
    (hh : s.host.todo = [] ∨ s.host.todo.head? = some .wait) :
    ∃ n t, n ≤ s.stepsLeft ∧ runs n s t ∧ t.phase = .idle ∧ t.busy = false ∧ t.done = true ∧ t.host = s.host := by
  induction hm : s.stepsLeft using Nat.strong_induction_on generalizing s with
  | _ m ih =>
    obtain ⟨u, hu⟩ := h.engineTurn_goes_on
    have hstep : step s = .next u := (step_of_busy hb hh).trans hu
    have hinv : u.Inv := stepKeepsInvariant s u h hstep
    obtain ⟨⟨hfewer, hdone⟩, hhost⟩ := h.engineTurn_progress hb hu
    by_cases hp : u.phase = .idle
    · exact ⟨1, u, by omega, runs_succ hstep (runs_zero u), hp, hinv.idleIff.1 hp, hdone hp, hhost⟩
    · obtain ⟨n, t, hn, hrun, hidle, hbusy, hd, ht⟩ := ih _ (hm ▸ hfewer) hinv
        (by simpa using mt hinv.idleIff.2 hp) (hhost ▸ hh) rfl
      exact ⟨n + 1, t, by omega, runs_succ hstep hrun, hidle, hbusy, hd, ht.trans hhost⟩

/-- R101: on an idle engine a WAIT ends with a STATUS whose BUSY bit reads 0. -/
theorem step_wait_of_idle {t : State} {rest : List HostMove} (hb : t.busy = false) (ht : t.host.todo = .wait :: rest) :
    ∃ v : BitVec 32, v.toNat % 2 = 0 ∧
      step t = .next { t with host := { todo := rest, seen := t.host.seen ++ [.reg 1 v] } } := by
  refine ⟨t.statusWord.setWidth 32, ?_, step_of_move ht (by simp [hb])⟩
  have hstatus : t.statusWord.toNat = _ := statusFields_toNat ..
  rw [BitVec.toNat_setWidth_of_le (by decide), hstatus, hb]
  simp only [Bool.false_eq_true, if_false]
  omega

/-- Settles O55: the steps left are at most 2 * OUTCAP + 6, and on the idle engine a pending WAIT ends. -/
theorem everyOperationEnds : Obligations.EveryOperationEnds := by
  intro s h hb hh
  obtain ⟨n, t, hn, hrun, hidle, hbusy, hdone, hhost⟩ := h.operation_ends hb hh
  refine ⟨n, t, hn.trans h.stepsLeft_le, hrun, hidle, hbusy, hdone, hhost, fun rest hrest => ?_⟩
  obtain ⟨v, hv, hstep⟩ := step_wait_of_idle hbusy (hhost ▸ hrest)
  rw [hhost] at hstep
  exact ⟨v, hv, runs_trans hrun (runs_succ hstep (runs_zero _))⟩

end Sys2Proof.Machine
end

section
/-!
PROOFS. The outcome of an operation depends on its inputs alone (R210). Two operations on the same inputs read the same
operands, so that their block rules ask the cipher the same and get the same answers, in whatever order the blocks are
taken; both then write the same blocks or both end in CipherError.
-/

namespace Sys2Proof.Machine

/-! ## What a block rule reads (R36, R67, R68, R164) -/

/-- What the block rule of `i` reads, but for FB, is in `u` as it is in `s`. -/
structure SameOperands (i : Instr) (s u : State) : Prop where
  plat : u.plat = s.plat
  nblk : u.nblk = s.nblk
  iv : i.mode ≠ .ecb → i.mode ≠ .rd → u.iv = s.iv
  plain : i.dir = .enc → ∀ k, k < s.nblk → u.pBlk k = s.pBlk k
  content : i.dir = .dec → ∀ k, k < s.nblk → u.cBlk i.mode k = s.cBlk i.mode k

section operands
variable {i : Instr} {s t u v : State} {k : Nat}

theorem SameOperands.refl (i : Instr) (s : State) : SameOperands i s s :=
  ⟨rfl, rfl, fun _ _ => rfl, fun _ _ _ => rfl, fun _ _ _ => rfl⟩

/-- The operands stay the same in the states that keep the operations. -/
theorem SameOperands.of_keeps (h : SameOperands i s u) (ks : KeepsOperation s t) (ku : KeepsOperation u v) :
    SameOperands i t v where
  plat := (ku.plat.trans h.plat).trans ks.plat.symm
  nblk := (ku.nblk.trans h.nblk).trans ks.nblk.symm
  iv := fun h1 h2 => (ku.iv.trans (h.iv h1 h2)).trans ks.iv.symm
  plain := fun hd k hk => ((ku.pBlk k).trans (h.plain hd k (ks.nblk ▸ hk))).trans (ks.pBlk k).symm
  content := fun hd k hk => ((ku.cBlk _ k).trans (h.content hd k (ks.nblk ▸ hk))).trans (ks.cBlk _ k).symm

theorem SameOperands.blkSz (h : SameOperands i s u) : u.blkSz = s.blkSz := by simp [State.blkSz, h.plat]

theorem SameOperands.outAddr (h : SameOperands i s u) (d : Dir) (m : Mode) (k : Nat) :
    u.outAddr d m k = s.outAddr d m k := by
  cases d <;> simp [State.outAddr, State.seedOff, h.blkSz]

theorem SameOperands.ctr (h : SameOperands i s u) (hm : i.mode = .ctr) (k : Nat) : u.ctr k = s.ctr k := by
  rw [State.ctr, State.ctr, h.iv (by simp [hm]) (by simp [hm]), h.plat]

/-- R240: the cipher is asked the same. -/
theorem SameOperands.blockRequest_eq (h : SameOperands i s u) (hk : k < s.nblk)
    (hfb : usesFb i.dir i.mode = true → u.fb = s.fb) : blockRequest i k u = blockRequest i k s := by
  have hE := State.cipherEnc_congr h.plat
  have hD := State.cipherDec_congr h.plat
  have hP := fun hd => h.plain hd k hk
  have hC := fun hd => h.content hd k hk
  have hctr := fun hm => h.ctr hm k
  cases i <;> simp_all [blockRequest, Instr.dir, Instr.mode, usesFb]

/-- The block written is the same. -/
theorem SameOperands.blockValue_eq (h : SameOperands i s u) (hk : k < s.nblk)
    (hfb : usesFb i.dir i.mode = true → u.fb = s.fb) (y : ByteString) : blockValue i k u y = blockValue i k s y := by
  have hP := fun hd => h.plain hd k hk
  have hC := fun hd => h.content hd k hk
  cases i <;> simp_all [blockValue, Instr.dir, Instr.mode, usesFb]

/-- The value left in FB is the same, where the block rule reads FB. -/
theorem SameOperands.blockFb_eq (h : SameOperands i s u) (hk : k < s.nblk) (hu : usesFb i.dir i.mode = true)
    (hfb : u.fb = s.fb) (y : ByteString) : blockFb i k u y = blockFb i k s y := by
  have hP := fun hd => h.plain hd k hk
  have hC := fun hd => h.content hd k hk
  cases i <;> simp_all [blockFb, Instr.dir, Instr.mode, usesFb]

end operands

/-! ## The blocks in rising order -/

/-- FB before block `k` when the blocks of `s` are taken in rising order (of no account after a failed request). -/
def chainFb (i : Instr) (s : State) : Nat → ByteString
  | 0 => s.fb
  | k + 1 => blockFb i k (s.setFb (chainFb i s k)) ((blockRequest i k (s.setFb (chainFb i s k))).getD [])

/-- What the cipher answers to the request of block `k`. -/
def chainAnswer (i : Instr) (s : State) (k : Nat) : Option ByteString := blockRequest i k (s.setFb (chainFb i s k))

/-- Block `k` of the result, where its request is answered. -/
def chainValue (i : Instr) (s : State) (k : Nat) : ByteString :=
  blockValue i k (s.setFb (chainFb i s k)) ((chainAnswer i s k).getD [])

/-- In every state of the phase that began in `s`, the request of block `k` is answered `answer k`; where that is a
block, the rule writes `value k` and leaves `feedback (k + 1)` in FB where it reads FB. -/
def RuleAnswers (i : Instr) (answer : Nat → Option ByteString) (value feedback : Nat → ByteString) (s : State) : Prop :=
  ∀ v k, KeepsOperation s v → k < s.nblk → (usesFb i.dir i.mode = true → v.fb = feedback k) →
    blockRequest i k v = answer k ∧ ∀ y, answer k = some y → blockValue i k v y = value k ∧
      (usesFb i.dir i.mode = true → blockFb i k v y = feedback (k + 1))

theorem State.setFb_keepsOperation (s : State) (fb : ByteString) : KeepsOperation s (s.setFb fb) :=
  ⟨⟨⟨rfl, rfl, rfl, rfl, rfl, rfl, rfl, rfl⟩, rfl, rfl, rfl, rfl⟩, rfl, rfl, rfl⟩

/-- R210: on the same operands, the requests are answered as those of `s` in rising order are. -/
theorem SameOperands.ruleAnswers {i : Instr} {s u : State} (h : SameOperands i s u) :
    RuleAnswers i (chainAnswer i s) (chainValue i s) (chainFb i s) u := by
  intro v k hv hk hfb
  have hsame := h.of_keeps (s.setFb_keepsOperation (chainFb i s k)) hv
  have hk' : k < (s.setFb (chainFb i s k)).nblk := h.nblk ▸ hk
  refine ⟨hsame.blockRequest_eq hk' hfb, fun y hy => ⟨?_, fun hu => ?_⟩⟩
  · rw [chainValue, hy]
    exact hsame.blockValue_eq hk' hfb y
  · rw [chainFb, show blockRequest i k (s.setFb (chainFb i s k)) = some y from hy]
    exact hsame.blockFb_eq hk' hu (hfb hu) y

/-! ## BLOCKS, when the cipher may fail (R201, R224) -/

/-- A block step whose request is answered writes the block of the index it takes. -/
theorem BlockReady.exec_eq_writeBlock {i : Instr} {s : State} (h : BlockReady i s) {y : ByteString}
    (hy : blockRequest i (s.nextIndex i.dir i.mode) s = some y) :
    exec i s = .next ((s.choose i.dir i.mode).writeBlock i.dir i.mode (s.nextIndex i.dir i.mode)
      (blockValue i (s.nextIndex i.dir i.mode) s y) (blockFb i (s.nextIndex i.dir i.mode) s y)) := by
  obtain ⟨hphase, hp, hholds⟩ := h
  obtain ⟨hnil, -⟩ | ⟨-, y', hy', hstep⟩ | ⟨-, hy', -⟩ := blocksStep_cases i s
  · exact absurd hnil hp
  · rw [blockRequest_choose, hy] at hy'
    cases hy'
    rw [exec_blocks hphase hholds, hstep, blockValue_choose, blockFb_choose]
    rfl
  · rw [blockRequest_choose, hy] at hy'
    cases hy'

section blocks
variable {i : Instr} {answer : Nat → Option ByteString} {value feedback : Nat → ByteString} {s v : State}

/-- A BLOCKS step with an index pending ends in CipherError or writes one block of the phase, as the answer says. -/
theorem BlockPhase.blocks_step (hrule : RuleAnswers i answer value feedback s) (hs : s.phase = .blocks)
    (h : BlockPhase i value feedback s v) (hp : v.pending ≠ []) : ∃ k ∈ v.pending,
    (answer k = none ∧ ∃ w, runs 1 v w ∧ EndsInCipherError v w) ∨
    (answer k ≠ none ∧ ∃ w, Advances i 1 v w ∧ BlockPhase i value feedback s w ∧
      w.pending.length + 1 = v.pending.length ∧ ∀ j, j ∈ w.pending ↔ j ∈ v.pending ∧ j ≠ k) := by
  have hph : v.phase = .blocks := h.phase.trans hs
  have hk := v.nextIndex_mem i.dir i.mode hp
  have hholds := h.running.inv.blockHolds (h.running.operation (by simp [hph])) (.inl hph)
  have hle : usesFb i.dir i.mode = true → ∀ j ∈ v.pending, v.nextIndex i.dir i.mode ≤ j :=
    fun hu j hj => State.nextIndex_le (freeOrder_of_usesFb hu) hj
  obtain ⟨hreq, hanswer⟩ := hrule v _ h.toKeepsOperation (h.lt_nblk (.inl hs) hk) fun hu => (h.fb_eq hu hk (hle hu)).1
  have hready : BlockReady i v := ⟨hph, hp, hholds⟩
  refine ⟨v.nextIndex i.dir i.mode, hk, ?_⟩
  cases hy : answer (v.nextIndex i.dir i.mode) with
  | none =>
    obtain ⟨w, hexec, hend⟩ := hready.failed (hreq.trans hy)
    exact .inl ⟨rfl, w, runs_succ (h.running.step_eq.trans hexec) (runs_zero w), hend⟩
  | some y =>
    obtain ⟨hval, hfb⟩ := hanswer y hy
    have hexec := hready.exec_eq_writeBlock (hreq.trans hy)
    rw [hval] at hexec
    have adv := h.running.advances hexec
      ((v.choose_keepsOperation i.dir i.mode).toGoesOn.trans (State.writeBlock_goesOn ..))
    refine .inr ⟨nofun, _, adv, h.choose.writeBlock (by simpa using hk) ?_ adv.running fun hu =>
      ⟨by simpa using hle hu, hfb hu⟩, ?_, fun j => by simp [State.writeBlock]⟩
    · rw [State.choose_blkSz, ← hval]
      exact blockValue_length (blockRequest_length (hreq.trans hy)) (State.fb_length_of_blockHolds hholds)
    · simpa [State.writeBlock] using h.running.inv.length_retire hk

/-- R201, R224: BLOCKS writes every block when every request is answered, and ends in CipherError when one is not,
whatever the order of the blocks. -/
theorem BlockPhase.blocks_end (hrule : RuleAnswers i answer value feedback s) (hs : s.phase = .blocks)
    (h : BlockPhase i value feedback s v) :
    ((∀ k ∈ v.pending, answer k ≠ none) ∧
      ∃ n w, Advances i n v w ∧ BlockPhase i value feedback s w ∧ w.pending = []) ∨
    ((∃ k ∈ v.pending, answer k = none) ∧ ∃ n u w, runs n v w ∧ EndsInCipherError u w) := by
  induction hn : v.pending.length generalizing v with
  | zero =>
    have hnil := List.length_eq_zero_iff.1 hn
    exact .inl ⟨by simp [hnil], 0, v, .refl h.running, h, hnil⟩
  | succ n ih =>
    obtain ⟨k, hk, ⟨hnone, w, hw, hend⟩ | ⟨hsome, w, hw, hphase, hlen, hmem⟩⟩ :=
      h.blocks_step hrule hs (fun hnil => by simp [hnil] at hn)
    · exact .inr ⟨⟨k, hk, hnone⟩, 1, v, w, hw, hend⟩
    · obtain ⟨hall, m, u, hu, hend⟩ | ⟨⟨j, hj, hnone⟩, m, u, x, hx, hend⟩ := ih hphase (by omega)
      · refine .inl ⟨fun j hj => ?_, 1 + m, u, hw.trans hu, hend⟩
        by_cases hjk : j = k
        · exact hjk ▸ hsome
        · exact hall j ((hmem j).2 ⟨hj, hjk⟩)
      · exact .inr ⟨⟨j, ((hmem j).1 hj).1, hnone⟩, 1 + m, u, x, runs_trans hw.run hx, hend⟩

end blocks

/-! ## Two operations that end alike -/

/-- Both operations end, in states of which `R` holds. -/
def BothEnd (R : State → State → Prop) (s u : State) : Prop := ∃ n m t v, runs n s t ∧ runs m u v ∧ R t v

theorem BothEnd.of_runs {R : State → State → Prop} {n m : Nat} {s s' u u' : State} (hs : runs n s s') (hu : runs m u u')
    (h : BothEnd R s' u') : BothEnd R s u := by
  obtain ⟨n', m', t, v, ht, hv, hR⟩ := h
  exact ⟨n + n', m + m', t, v, runs_trans hs ht, runs_trans hu hv, hR⟩

/-- The two operations have ended with the same error code and, without an error, with the same result. -/
structure SameResult (t v : State) : Prop where
  idle : t.phase = .idle ∧ v.phase = .idle
  done : t.done = true ∧ v.done = true
  err : t.err = v.err
  outlen : t.outlen = v.outlen
  result : t.err = 0 → ∀ a, a < t.outlen.toNat → t.byteAt .outbuf a = v.byteAt .outbuf a

/-- R225: two normal ends with one length and the same bytes below it. -/
theorem State.finish_sameResult {s u : State} {n : Nat} (h : ∀ a, a < n → u.byteAt .outbuf a = s.byteAt .outbuf a) :
    SameResult (s.finish n) (u.finish n) where
  idle := ⟨rfl, rfl⟩
  done := ⟨rfl, rfl⟩
  err := rfl
  outlen := rfl
  result := fun _ a ha => (h a (ha.trans_le (Nat.mod_le ..))).symm

/-- R226: two error ends with one code. -/
theorem State.raise_sameResult (s u : State) (e : EngineError) : SameResult (s.raise e) (u.raise e) where
  idle := ⟨rfl, rfl⟩
  done := ⟨rfl, rfl⟩
  err := rfl
  outlen := rfl
  result := fun h => absurd h e.code_ne_zero

theorem EndsInCipherError.sameResult {s t u v : State} (ht : EndsInCipherError s t) (hv : EndsInCipherError u v) :
    SameResult t v := by
  obtain ⟨ht0, htd, -, htp⟩ := ht.ended
  obtain ⟨hv0, hvd, -, hvp⟩ := hv.ended
  exact ⟨⟨htp, hvp⟩, ⟨htd, hvd⟩, ht.code.trans hv.code.symm, ht0.trans hv0.symm, fun h => by simp [ht.code] at h⟩

/-! ## Two operations on the same operands, from INIT on -/

section alike
variable {i : Instr} {s u : State}

/-- R69: where the blocks of two results are the same, and the bytes before them, so are all their bytes. -/
theorem State.byteAt_congr_outBlk {d : Dir} {m : Mode} {n : Nat} (hB : u.blkSz = s.blkSz)
    (h0 : u.outAddr d m 0 = s.outAddr d m 0) (hb : 1 ≤ s.blkSz)
    (hseed : ∀ a, a < s.outAddr d m 0 → u.byteAt .outbuf a = s.byteAt .outbuf a)
    (hblk : ∀ k, k < n → u.outBlk d m k = s.outBlk d m k) {a : Nat} (ha : a < s.outAddr d m 0 + n * s.blkSz) :
    u.byteAt .outbuf a = s.byteAt .outbuf a := by
  by_cases hlt : a < s.outAddr d m 0
  · exact hseed a hlt
  obtain ⟨x, rfl⟩ := Nat.exists_eq_add_of_le (Nat.le_of_not_lt hlt)
  have hx := hblk (x / s.blkSz) ((Nat.div_lt_iff_lt_mul hb).2 (by omega))
  calc u.byteAt .outbuf (s.outAddr d m 0 + x)
      = (u.outBlk d m (x / u.blkSz)).getD (x % u.blkSz) 0 := h0 ▸ u.byteAt_result d m (hB ▸ hb) x
    _ = (s.outBlk d m (x / s.blkSz)).getD (x % s.blkSz) 0 := by rw [hB, hx]
    _ = s.byteAt .outbuf (s.outAddr d m 0 + x) := (s.byteAt_result d m hb x).symm

/-- R125: two DEC operations in UNPAD with the same content end alike. -/
theorem unpad_alike (hs : Running i s) (hu : Running i u) (hsp : s.phase = .unpad) (hup : u.phase = .unpad)
    (hB : u.blkSz = s.blkSz) (hn : u.nblk = s.nblk)
    (hbytes : ∀ a, a < s.nblk * s.blkSz → u.byteAt .outbuf a = s.byteAt .outbuf a) : BothEnd SameResult s u := by
  refine ⟨1, 1, s.unpadStep i.pad, u.unpadStep i.pad, runs_succ (hs.step_unpad hsp) (runs_zero _),
    runs_succ (hu.step_unpad hup) (runs_zero _), ?_⟩
  have hlen : unpadLen i.pad u.blkSz (u.nblk * u.blkSz) (u.byteAt .outbuf) =
      unpadLen i.pad s.blkSz (s.nblk * s.blkSz) (s.byteAt .outbuf) := by
    rw [hB, hn]
    exact unpadLen_congr _ _ hbytes
  cases h : unpadLen i.pad s.blkSz (s.nblk * s.blkSz) (s.byteAt .outbuf) with
  | some len =>
    rw [State.unpadStep_of_some h, State.unpadStep_of_some (hlen.trans h)]
    exact State.finish_sameResult fun a ha => hbytes a (ha.trans_le (unpadLen_le h))
  | none =>
    rw [State.unpadStep_of_none h, State.unpadStep_of_none (hlen.trans h)]
    exact State.raise_sameResult s u .padding

/-- R201: two ENC operations that have written the same blocks end alike. -/
theorem closing_alike_enc (hs : Running i s) (hu : Running i u) (hsp : s.phase = .blocks) (hup : u.phase = .blocks)
    (hsn : s.pending = []) (hun : u.pending = []) (hd : i.dir = .enc) (h : SameOperands i s u)
    (hseed : ∀ a, a < s.outAddr i.dir i.mode 0 → u.byteAt .outbuf a = s.byteAt .outbuf a)
    (hblk : ∀ k, k < s.nblk → u.outBlk i.dir i.mode k = s.outBlk i.dir i.mode k) : BothEnd SameResult s u := by
  have hb : 1 ≤ s.blkSz := hs.inv.one_le_blkSz (hs.operation (by simp [hsp])).bound
  have hsc := hs.step_eq.trans (hs.exec_closeBlocks hsp hsn)
  have huc := hu.step_eq.trans (hu.exec_closeBlocks hup hun)
  rw [hd] at hsc huc hseed hblk
  refine ⟨1, 1, _, _, runs_succ hsc (runs_zero _), runs_succ huc (runs_zero _), ?_⟩
  have hlen : u.seedOff i.mode + u.nblk * u.blkSz = s.seedOff i.mode + s.nblk * s.blkSz := by
    simp [State.seedOff, h.blkSz, h.nblk]
  rw [State.closeBlocks, State.closeBlocks, hlen]
  refine State.finish_sameResult fun a ha => ?_
  exact State.byteAt_congr_outBlk h.blkSz (h.outAddr ..) hb hseed hblk (by simpa [State.outAddr] using ha)

/-- R201, R202: a DEC operation that has written its blocks reaches UNPAD, in CBC with the blocks combined. -/
theorem Running.blocks_unpad (h : Running i s) (hp : s.phase = .blocks) (hn : s.pending = []) (hd : i.dir = .dec) :
    ∃ n t, Advances i n s t ∧ t.phase = .unpad ∧ t.nblk = s.nblk ∧ ∀ k, k < s.nblk → t.outBlk .dec i.mode k =
      if i.mode = .cbc then xor (s.outBlk .dec i.mode k) (Closed.prev s.iv (s.cBlk i.mode) k)
      else s.outBlk .dec i.mode k := by
  by_cases hm : i.mode = .cbc
  · obtain ⟨t, ht, htp, htn, hblk⟩ := h.combine_unpad hp hn hd hm
    rw [hm]
    exact ⟨_, t, ht, htp, htn, hblk⟩
  · have hclose := h.exec_closeBlocks hp hn
    rw [hd, State.closeBlocks_unpad _ hm] at hclose
    have adv := h.advances hclose (.sequenced s .unpad s.pending s.nblk s.padlen)
    exact ⟨1, _, adv, rfl, rfl, fun k _ => (if_neg hm).symm⟩

/-- R144: COMBINE combines a block with the same ciphertext block, or with the same IV. -/
theorem SameOperands.prev (h : SameOperands i s u) (hd : i.dir = .dec) (hm : i.mode = .cbc) {k : Nat}
    (hk : k < s.nblk) :
    Closed.prev u.iv (u.cBlk i.mode) k = Closed.prev s.iv (s.cBlk i.mode) k := by
  cases k with
  | zero => exact h.iv (by simp [hm]) (by simp [hm])
  | succ k => exact h.content hd k (Nat.lt_of_succ_lt hk)

/-- R201, R202: two DEC operations that have written the same blocks end alike. -/
theorem closing_alike_dec (hs : Running i s) (hu : Running i u) (hsp : s.phase = .blocks) (hup : u.phase = .blocks)
    (hsn : s.pending = []) (hun : u.pending = []) (hd : i.dir = .dec) (h : SameOperands i s u)
    (hblk : ∀ k, k < s.nblk → u.outBlk i.dir i.mode k = s.outBlk i.dir i.mode k) : BothEnd SameResult s u := by
  have hb : 1 ≤ s.blkSz := hs.inv.one_le_blkSz (hs.operation (by simp [hsp])).bound
  rw [hd] at hblk
  obtain ⟨n, t, ht, htp, htn, htblk⟩ := hs.blocks_unpad hsp hsn hd
  obtain ⟨m, v, hv, hvp, hvn, hvblk⟩ := hu.blocks_unpad hup hun hd
  have hB : v.blkSz = t.blkSz := (hv.goesOn.blkSz.trans h.blkSz).trans ht.goesOn.blkSz.symm
  have hplain : ∀ k, k < t.nblk → v.outBlk .dec i.mode k = t.outBlk .dec i.mode k := fun k hk => by
    rw [htn] at hk
    rw [hvblk k (h.nblk ▸ hk), htblk k hk, hblk k hk]
    split
    · next hm => rw [h.prev hd hm hk]
    · rfl
  refine .of_runs ht.run hv.run (unpad_alike ht.running hv.running htp hvp hB ((hvn.trans h.nblk).trans htn.symm)
    fun a ha => ?_)
  exact State.byteAt_congr_outBlk (d := .dec) hB (by simp [State.outAddr]) (ht.goesOn.blkSz ▸ hb)
    (by simp [State.outAddr]) hplain (by simpa [State.outAddr] using ha)

/-- R201, R202: two operations in BLOCKS on the same operands, FB and seed end alike. -/
theorem blocks_alike (hs : Running i s) (hu : Running i u) (hsp : s.phase = .blocks) (hup : u.phase = .blocks)
    (hspend : s.pending = List.range s.nblk) (hupend : u.pending = List.range u.nblk) (h : SameOperands i s u)
    (hfb : usesFb i.dir i.mode = true → u.fb = s.fb)
    (hseed : ∀ a, a < s.outAddr i.dir i.mode 0 → u.byteAt .outbuf a = s.byteAt .outbuf a) : BothEnd SameResult s u := by
  have hpend : u.pending = s.pending := by rw [hspend, hupend, h.nblk]
  have hsend := (BlockPhase.start hs hspend fun _ => rfl).blocks_end (SameOperands.refl i s).ruleAnswers hsp
  have huend := (BlockPhase.start hu hupend hfb).blocks_end h.ruleAnswers hup
  rw [hpend] at huend
  obtain ⟨hall, n, t, ht, htphase, htn⟩ | ⟨⟨k, hk, hnone⟩, n, s', t, ht, htend⟩ := hsend <;>
    obtain ⟨hall', m, v, hv, hvphase, hvn⟩ | ⟨⟨k', hk', hnone'⟩, m, u', v, hv, hvend⟩ := huend
  · have hsame := h.of_keeps htphase.toKeepsOperation hvphase.toKeepsOperation
    have htp := htphase.phase.trans hsp
    have hvp := hvphase.phase.trans hup
    have hblk : ∀ k, k < t.nblk → v.outBlk i.dir i.mode k = t.outBlk i.dir i.mode k := fun k hk => by
      rw [htphase.nblk] at hk
      rw [htphase.blocks k hk, hvphase.blocks k (h.nblk ▸ hk), htn, hvn, if_neg List.not_mem_nil,
        if_neg List.not_mem_nil]
    refine .of_runs ht.run hv.run ?_
    cases hd : i.dir with
    | dec => exact closing_alike_dec ht.running hv.running htp hvp htn hvn hd hsame hblk
    | enc =>
      refine closing_alike_enc ht.running hv.running htp hvp htn hvn hd hsame (fun a ha => ?_) hblk
      rw [htphase.outAddr] at ha
      rw [hvphase.seed a (h.outAddr .. ▸ ha), hseed a ha, htphase.seed a ha]
  · exact absurd hnone' (hall k' hk')
  · exact absurd hnone (hall' k hk)
  · exact ⟨n, m, t, v, ht, hv, htend.sameResult hvend⟩

end alike

/-! ## What is drawn (R120, R180, R243) -/

/-- The phases after INIT, and IDLE. -/
structure Phase.PastInit (p : Phase) : Prop where
  not_check : p ≠ .check
  not_pad : p ≠ .pad
  not_init : p ≠ .init

/-- No byte of the randomness port is drawn from `s` to `t`. -/
structure Undrawn (s t : State) : Prop where
  rnd : t.free.rnd = s.free.rnd
  drawn : t.free.drawn = s.free.drawn

theorem Undrawn.rndAt {s t : State} (h : Undrawn s t) (k : Nat) : t.rndAt k = s.rndAt k := by
  simp [State.rndAt, h.rnd, h.drawn]

theorem Undrawn.trans {s t u : State} (h : Undrawn s t) (k : Undrawn t u) : Undrawn s u :=
  ⟨k.rnd.trans h.rnd, k.drawn.trans h.drawn⟩

theorem State.choose_undrawn (s : State) (d : Dir) (m : Mode) : Undrawn s (s.choose d m) := by
  unfold State.choose
  split <;> exact ⟨rfl, rfl⟩

/-- R243: only PAD and INIT draw. -/
theorem exec_undrawn {i : Instr} {s t : State} (hs : s.phase.PastInit) (hidle : s.phase ≠ .idle)
    (h : exec i s = .next t) : t.phase.PastInit ∧ Undrawn s t := by
  obtain ⟨hcheck, hpad, hinit⟩ := hs
  obtain ⟨hp, -⟩ | ⟨hp, -⟩ | ⟨hp, -⟩ | ⟨hp, -⟩ | ⟨hp, -, rfl⟩ | ⟨hp, -, -, -, rfl⟩ | ⟨hp, -, -, rfl⟩ := exec_cases h
  · exact absurd hp hidle
  · exact absurd hp hcheck
  · exact absurd hp hpad
  · exact absurd hp hinit
  · have hc := s.choose_undrawn i.dir i.mode
    obtain ⟨-, ht⟩ | ⟨-, y, -, ht⟩ | ⟨-, -, ht⟩ := blocksStep_cases i s <;> rw [ht]
    · obtain ⟨-, ht⟩ | ⟨-, -, ht⟩ | ⟨-, ht⟩ := s.closeBlocks_cases i.dir i.mode <;> rw [ht] <;>
        exact ⟨⟨nofun, nofun, nofun⟩, ⟨rfl, rfl⟩⟩
    · exact ⟨⟨by simpa using hcheck, by simpa using hpad, by simpa using hinit⟩, ⟨hc.rnd, hc.drawn⟩⟩
    · exact ⟨⟨nofun, nofun, nofun⟩, ⟨hc.rnd, hc.drawn⟩⟩
  · obtain ⟨-, ht⟩ | ⟨k, -, v, -, ht⟩ := s.combineStep_cases <;> rw [ht]
    · exact ⟨⟨nofun, nofun, nofun⟩, ⟨rfl, rfl⟩⟩
    · exact ⟨⟨hcheck, hpad, hinit⟩, ⟨rfl, rfl⟩⟩
  · obtain ⟨len, -, ht⟩ | ht := s.unpadStep_cases i.pad <;> rw [ht] <;> exact ⟨⟨nofun, nofun, nofun⟩, ⟨rfl, rfl⟩⟩

/-- Past INIT, a step of the engine alone draws nothing. -/
theorem State.Inv.step_undrawn {s t : State} (h : s.Inv) (ha : s.host.todo = []) (hp : s.phase.PastInit)
    (hs : step s = .next t) : t.phase.PastInit ∧ Undrawn s t := by
  rw [step_of_no_move ha] at hs
  by_cases hb : s.busy = true
  · have hidle : s.phase ≠ .idle := fun hidle => by simp [h.idleIff.1 hidle] at hb
    obtain ⟨i, hi, -⟩ := h.operation hidle hp.not_check
    exact exec_undrawn hp hidle ((engineTurn_of_decoded hb hi).symm.trans hs)
  · cases (engineTurn_of_idle (by simpa using hb)).symm.trans hs
    exact ⟨hp, ⟨rfl, rfl⟩⟩

/-- Past INIT, a run of the engine alone draws nothing. -/
theorem State.Inv.run_undrawn {n : Nat} {s t : State} (h : s.Inv) (ha : s.host.todo = []) (hp : s.phase.PastInit)
    (hr : runs n s t) : Undrawn s t := by
  induction n generalizing s with
  | zero =>
    cases hr
    exact ⟨rfl, rfl⟩
  | succ n ih =>
    obtain ⟨u, hs, hu⟩ := runs_cases hr
    obtain ⟨hup, hundrawn⟩ := h.step_undrawn ha hp hs
    exact hundrawn.trans (ih (stepKeepsInvariant s u h hs) ((h.step_keepsInputs ha hs).host ▸ ha) hup hu)

/-! ## Two operations on the same inputs (R37, R210) -/

/-- The two operations have the same result, and the port yields the same bytes from there on. -/
structure SameOutcome (t v : State) : Prop extends SameResult t v where
  port : ∀ k, t.rndAt k = v.rndAt k

section inputs
variable {i : Instr} {s u : State}

/-- R199: outside RandomDelta, FB of a command that reads it begins as the IV. -/
theorem State.loadFb_fb_iv (s : State) {d : Dir} {m : Mode} (hu : usesFb d m = true) (hm : m ≠ .rd) :
    (s.loadFb d m).fb = s.iv := by
  obtain ⟨hu', -⟩ | ⟨-, -, h⟩ | ⟨-, hrd, -⟩ | ⟨-, hrd, -⟩ := s.loadFb_cases d m
  · simp [hu] at hu'
  · rw [h]
    rfl
  · exact absurd hrd hm
  · exact absurd hrd hm

/-- R180: INIT draws the seed of ENC.RD and nothing else. -/
theorem State.rndAt_initStep (s : State) (d : Dir) (m : Mode) (k : Nat) :
    (s.initStep d m).rndAt k = s.rndAt ((if d = .enc ∧ m = .rd then s.blkSz else 0) + k) := by
  change (s.loadFb d m).rndAt k = _
  obtain ⟨-, hm, h⟩ | ⟨-, hm, h⟩ | ⟨rfl, rfl, h⟩ | ⟨rfl, -, h⟩ := s.loadFb_cases d m <;> rw [h]
  · simp [hm]
  · simp [hm, State.setFb, State.rndAt]
  · exact s.rndAt_drop s.blkSz k
  · simp [State.setFb, State.rndAt]

/-- R199: on the same operands, port and seed, INIT leaves the same in FB. -/
theorem SameOperands.loadFb_fb (h : SameOperands i s u) (hport : ∀ k, u.rndAt k = s.rndAt k)
    (hseed : i.dir = .dec → i.mode = .rd → u.memRead .inbuf 0 u.blkSz = s.memRead .inbuf 0 s.blkSz)
    (hu : usesFb i.dir i.mode = true) : (u.loadFb i.dir i.mode).fb = (s.loadFb i.dir i.mode).fb := by
  by_cases hm : i.mode = .rd
  · cases hd : i.dir with
    | enc =>
      rw [hm]
      change u.rndBytes u.blkSz = s.rndBytes s.blkSz
      rw [h.blkSz]
      exact List.map_congr_left fun k _ => hport k
    | dec =>
      rw [hm]
      exact hseed hd hm
  · have hecb : i.mode ≠ .ecb := fun hecb => by simp [hecb, usesFb] at hu
    rw [State.loadFb_fb_iv _ hu hm, State.loadFb_fb_iv _ hu hm, h.iv hecb hm]

/-- R180: on the same port, INIT writes the same before the blocks of the result. -/
theorem SameOperands.byteAt_initStep_seed (h : SameOperands i s u) (hport : ∀ k, u.rndAt k = s.rndAt k) {a : Nat}
    (ha : a < s.outAddr i.dir i.mode 0) :
    (u.initStep i.dir i.mode).byteAt .outbuf a = (s.initStep i.dir i.mode).byteAt .outbuf a := by
  obtain ⟨hd, hm⟩ : i.dir = .enc ∧ i.mode = .rd := by
    cases hd : i.dir <;> by_cases hm : i.mode = .rd <;> simp_all [State.outAddr, State.seedOff]
  have hlt : a < s.blkSz := by simpa [hd, hm, State.outAddr, State.seedOff] using ha
  rw [hd, hm, State.byteAt_initStep_encRd, State.byteAt_initStep_encRd, if_pos hlt, if_pos (h.blkSz ▸ hlt), hport]

/-- R66, R199: in INIT the operands exist. -/
theorem Running.exec_initStep (h : Running i s) (hp : s.phase = .init) :
    exec i s = .next (s.initStep i.dir i.mode) :=
  exec_init hp (h.inv.spacesHold (h.operation (by simp [hp])) (by simp [hp]))

/-- Two operations in INIT on the same operands, port and seed have one outcome. -/
theorem init_alike (hs : Running i s) (hu : Running i u) (hsp : s.phase = .init) (hup : u.phase = .init)
    (h : SameOperands i s u) (hport : ∀ k, u.rndAt k = s.rndAt k)
    (hseed : i.dir = .dec → i.mode = .rd → u.memRead .inbuf 0 u.blkSz = s.memRead .inbuf 0 s.blkSz) :
    BothEnd SameOutcome s u := by
  have hsk := s.initStep_keepsOperation i.dir i.mode
  have huk := u.initStep_keepsOperation i.dir i.mode
  have hs' := hs.advances (hs.exec_initStep hsp) hsk.toGoesOn
  have hu' := hu.advances (hu.exec_initStep hup) huk.toGoesOn
  have hport' : ∀ k, (u.initStep i.dir i.mode).rndAt k = (s.initStep i.dir i.mode).rndAt k := fun k => by
    rw [State.rndAt_initStep, State.rndAt_initStep, h.blkSz, hport]
  obtain ⟨n, m, t, v, ht, hv, hresult⟩ := blocks_alike hs'.running hu'.running rfl rfl (by rw [hsk.nblk]; rfl)
    (by rw [huk.nblk]; rfl) (h.of_keeps hsk huk) (h.loadFb_fb hport hseed)
    fun a ha => h.byteAt_initStep_seed hport (hsk.outAddr .. ▸ ha)
  have htport := hs'.running.inv.run_undrawn hs'.running.alone ⟨nofun, nofun, nofun⟩ ht
  have hvport := hu'.running.inv.run_undrawn hu'.running.alone ⟨nofun, nofun, nofun⟩ hv
  refine .of_runs hs'.run hu'.run ⟨n, m, t, v, ht, hv, hresult, fun k => ?_⟩
  rw [htport.rndAt, hvport.rndAt, hport']

/-- R210: the inputs of two operations: the parameters, the message, the IV, their lengths, and the bytes that the
randomness port yields. -/
structure SameInputs (s u : State) : Prop where
  plat : u.plat = s.plat
  inlen : u.inlen = s.inlen
  message : ∀ a, a < s.inlen.toNat → u.byteAt .inbuf a = s.byteAt .inbuf a
  ivlen : u.ivlen = s.ivlen
  iv : ∀ a, a < s.ivlen.toNat → u.byteAt .ivmem a = s.byteAt .ivmem a
  port : ∀ k, u.rndAt k = s.rndAt k

theorem SameInputs.blkSz (h : SameInputs s u) : u.blkSz = s.blkSz := by simp [State.blkSz, h.plat]

theorem SameInputs.cbound (h : SameInputs s u) : u.cbound = s.cbound := by simp [State.cbound, h.plat]

theorem SameInputs.inputBad (h : SameInputs s u) (m : Mode) : u.inputBad m = s.inputBad m := by
  simp [State.inputBad, h.inlen, h.blkSz]

theorem SameInputs.ivBad (h : SameInputs s u) (m : Mode) : u.ivBad m = s.ivBad m := by
  simp [State.ivBad, State.needsIv, h.plat, h.ivlen, h.blkSz]

/-- R192 to R194: the two operations pass CHECK or fail it together. -/
theorem SameInputs.checksPass (h : SameInputs s u) (hc : ChecksPass i s) : ChecksPass i u := by
  rw [ChecksPass, h.cbound, h.inputBad, h.ivBad]
  exact hc

/-- R194: where CHECK asks for an IV and passes, the IV is the same. -/
theorem SameInputs.iv_eq (h : SameInputs s u) {m : Mode} (hiv : s.ivBad m = false) (hecb : m ≠ .ecb) (hrd : m ≠ .rd) :
    u.iv = s.iv := by
  have hneeds : s.needsIv m = true := by cases m <;> simp_all [State.needsIv]
  have hlen : s.ivlen.toNat = s.blkSz := by simpa [State.ivBad, hneeds] using hiv
  rw [State.iv, State.iv, h.blkSz]
  exact State.memRead_congr fun a ha => h.iv _ (by omega)

/-- R67: the padded message is the same. -/
theorem SameInputs.plainBlock (h : SameInputs s u) (k : Nat) : plainBlock i u k = plainBlock i s k := by
  have hdraws : ∀ n, u.rndBytes n = s.rndBytes n := fun n => List.map_congr_left fun j _ => h.port j
  simp only [Machine.plainBlock, h.inlen, h.blkSz, hdraws]
  refine List.map_congr_left fun j _ => ?_
  split
  · next ha => exact h.message _ ha
  · rfl

/-- R191: where CHECK does not pass, it raises the same error in both operations. -/
theorem SameInputs.checkStep_raises (h : SameInputs s u) (hc : ¬ ChecksPass i s) :
    ∃ e, s.checkStep i.dir i.mode = s.raise e ∧ u.checkStep i.dir i.mode = u.raise e := by
  unfold State.checkStep
  rw [h.cbound, h.inputBad, h.ivBad]
  split
  · exact ⟨_, rfl, rfl⟩
  next hbound =>
  split
  · exact ⟨_, rfl, rfl⟩
  next hin =>
  split
  · exact ⟨_, rfl, rfl⟩
  next hiv =>
  exact absurd ⟨by simpa using hbound, fun hd => by simpa [hd] using hin, by simpa using hiv⟩ hc

/-- R192 to R194: two operations that fail CHECK end with one error code. -/
theorem SameInputs.check_alike (h : SameInputs s u) (hs : AtStart i s) (hu : AtStart i u) (hc : ¬ ChecksPass i s) :
    BothEnd SameOutcome s u := by
  obtain ⟨e, hse, hue⟩ := h.checkStep_raises hc
  have hsr := hs.running.step_eq.trans (exec_check hs.check)
  have hur := hu.running.step_eq.trans (exec_check hu.check)
  rw [hse] at hsr
  rw [hue] at hur
  exact ⟨1, 1, _, _, runs_succ hsr (runs_zero _), runs_succ hur (runs_zero _), State.raise_sameResult s u e,
    fun k => (h.port k).symm⟩

/-- R120: two ENC operations that pass CHECK have one outcome. -/
theorem SameInputs.enc_alike (h : SameInputs s u) (hs : AtStart i s) (hu : AtStart i u) (hc : ChecksPass i s)
    (hd : i.dir = .enc) : BothEnd SameOutcome s u := by
  have ⟨hbound, _, hivOk⟩ := hc
  have hb := hs.inv.one_le_blkSz hbound
  have hs' := hs.check_pad hc hd
  have hu' := hu.check_pad (h.checksPass hc) hd
  refine .of_runs hs'.run hu'.run (init_alike hs'.running hu'.running rfl rfl ?_ (fun k => ?_) (by simp [hd]))
  · have hn : encBlocks i u = encBlocks i s := by simp [encBlocks, h.inlen, h.blkSz]
    refine ⟨h.plat, hn, h.iv_eq hivOk, fun _ k hk => ?_, by simp [hd]⟩
    exact (State.padStep_pBlk (s := { u with phase := .pad }) (h.blkSz ▸ hb) (hn ▸ hk)).trans
      ((h.plainBlock k).trans (State.padStep_pBlk (s := { s with phase := .pad }) hb hk).symm)
  · have hdraws : padDraws i.pad (padLen i.pad u.blkSz u.inlen.toNat) =
        padDraws i.pad (padLen i.pad s.blkSz s.inlen.toNat) := by rw [h.blkSz, h.inlen]
    exact ((u.rndAt_drop _ k).trans (hdraws ▸ h.port _)).trans (s.rndAt_drop _ k).symm

/-- R191: two DEC operations that pass CHECK have one outcome. -/
theorem SameInputs.dec_alike (h : SameInputs s u) (hs : AtStart i s) (hu : AtStart i u) (hc : ChecksPass i s)
    (hd : i.dir = .dec) : BothEnd SameOutcome s u := by
  have ⟨_, hin, hivOk⟩ := hc
  have hs' := hs.check_dec hc hd
  have hu' := hu.check_dec (h.checksPass hc) hd
  have hsize : s.inlen.toNat = s.seedOff i.mode + decBlocks i s * s.blkSz := State.inputBad_eq_false (hin hd)
  have hn : decBlocks i u = decBlocks i s := by simp [decBlocks, h.inlen, h.blkSz]
  have hread : ∀ a n, a + n ≤ s.inlen.toNat → u.memRead .inbuf a n = s.memRead .inbuf a n := fun a n hle =>
    State.memRead_congr fun x hx => h.message _ (by omega)
  refine .of_runs hs'.run hu'.run (init_alike hs'.running hu'.running rfl rfl ?_ h.port fun _ hm => ?_)
  · refine ⟨h.plat, hn, h.iv_eq hivOk, by simp [hd], fun _ k hk => ?_⟩
    have hoff : u.seedOff i.mode = s.seedOff i.mode := by simp [State.seedOff, h.blkSz]
    have hlast : (k + 1) * s.blkSz ≤ decBlocks i s * s.blkSz := Nat.mul_le_mul_right _ hk
    rw [Nat.succ_mul] at hlast
    change u.memRead .inbuf (u.seedOff i.mode + k * u.blkSz) u.blkSz = s.cBlk i.mode k
    rw [hoff, h.blkSz]
    exact hread _ _ (by omega)
  · change u.memRead .inbuf 0 u.blkSz = s.memRead .inbuf 0 s.blkSz
    rw [h.blkSz]
    rw [State.seedOff, if_pos hm] at hsize
    exact hread _ _ (by omega)

/-- Settles O58: the two operations fail CHECK together, or read the same operands from INIT on. -/
theorem outcomeDependsOnInputsAlone : Obligations.OutcomeDependsOnInputsAlone := by
  intro i s u hs hu hplat hinlen hmessage hivlen hiv hport
  have h : SameInputs s u := ⟨hplat, hinlen, hmessage, hivlen, hiv, hport⟩
  have hends : BothEnd SameOutcome s u := by
    by_cases hc : ChecksPass i s
    · cases hd : i.dir with
      | enc => exact h.enc_alike hs hu hc hd
      | dec => exact h.dec_alike hs hu hc hd
    · exact h.check_alike hs hu hc
  obtain ⟨n, m, t, v, ht, hv, ⟨⟨htp, hvp⟩, ⟨htd, hvd⟩, herr, hlen, hbytes⟩, hrnd⟩ := hends
  exact ⟨n, m, t, v, ht, hv, htp, hvp, htd, hvd, herr, hlen, hbytes, hrnd⟩

end inputs

end Sys2Proof.Machine
end

section
/-!
PROOFS. The exceptions family: what every error end does and leaves unchanged (R226), and what an idle engine does (R237).
-/

namespace Sys2Proof.Machine

/-! ## The error end (R226) -/

/-- R226: `t` is an error end of the operation in `s`: `raise` in the state `s`, but for the free values, no byte of the
randomness port being drawn. -/
def EndsInError (s t : State) : Prop :=
  ∃ e f, f.rnd = s.free.rnd ∧ f.drawn = s.free.drawn ∧ t = State.raise { s with free := f } e

theorem State.raise_endsInError (s : State) (e : EngineError) : EndsInError s (s.raise e) :=
  ⟨e, s.free, rfl, rfl, rfl⟩

/-- R203, R226: a choice of a pending index stays made in an error end. -/
theorem State.raise_choose_endsInError (s : State) (d : Dir) (m : Mode) (e : EngineError) :
    EndsInError s ((s.choose d m).raise e) := by
  unfold State.choose
  split
  · exact ⟨e, s.dropPick.free, rfl, rfl, rfl⟩
  · exact s.raise_endsInError e

/-- A step of the command that leaves the engine idle with an error is an error end: only CHECK, BLOCKS and UNPAD lead to
IDLE, by `raise`, or by `finish` with ERR = 0. -/
theorem exec_endsInError {i : Instr} {s t : State} (hs : s.phase ≠ .idle) (h : exec i s = .next t)
    (hidle : t.phase = .idle) (herr : t.err ≠ 0) : EndsInError s t := by
  obtain ⟨hp, -⟩ | ⟨-, rfl⟩ | ⟨-, -, rfl⟩ | ⟨-, -, rfl⟩ | ⟨-, -, rfl⟩ | ⟨-, -, -, -, rfl⟩ | ⟨-, -, -, rfl⟩ :=
    exec_cases h
  · exact absurd hp hs
  · obtain ⟨e, -, ht⟩ | ⟨-, -, -, ⟨-, ht⟩ | ⟨-, ht⟩⟩ := s.checkStep_cases i.dir i.mode <;> rw [ht] at hidle ⊢
    · exact s.raise_endsInError e
    · cases hidle
    · cases hidle
  · cases hidle
  · cases hidle
  · obtain ⟨-, ht⟩ | ⟨-, y, -, ht⟩ | ⟨-, -, ht⟩ := blocksStep_cases i s <;> rw [ht] at hidle herr ⊢
    · obtain ⟨-, ht⟩ | ⟨-, -, ht⟩ | ⟨-, ht⟩ := s.closeBlocks_cases i.dir i.mode <;> rw [ht] at hidle herr
      · exact absurd rfl herr
      · cases hidle
      · cases hidle
    · exact absurd (by simpa using hidle) hs
    · exact s.raise_choose_endsInError _ _ _
  · obtain ⟨-, ht⟩ | ⟨k, -, v, -, ht⟩ := s.combineStep_cases <;> rw [ht] at hidle
    · cases hidle
    · exact absurd hidle hs
  · obtain ⟨len, -, ht⟩ | ht := s.unpadStep_cases i.pad <;> rw [ht] at herr ⊢
    · exact absurd rfl herr
    · exact s.raise_endsInError .padding

/-- The same of every step of a busy engine, the word in CTX being legal or not. -/
theorem engineTurn_endsInError {s t : State} (hb : s.busy = true) (hs : s.phase ≠ .idle) (h : engineTurn s = .next t)
    (hidle : t.phase = .idle) (herr : t.err ≠ 0) : EndsInError s t := by
  cases hd : decode s.ctx with
  | ok i => exact exec_endsInError hs ((engineTurn_of_decoded hb hd).symm.trans h) hidle herr
  | error e =>
    rw [State.illegalStep_next ((engineTurn_of_illegal hb hd).symm.trans h)]
    exact s.raise_endsInError .configuration

/-- R98: the codes of the errors. -/
theorem EngineError.code_cases (e : EngineError) :
    e.code = 1 ∨ e.code = 2 ∨ e.code = 3 ∨ e.code = 4 ∨ e.code = 7 := by
  cases e <;> decide

/-- Settles O10: the step is `raise`, in a state that differs from the one before it in the free values alone. -/
theorem errorEndEffect : Obligations.ErrorEndEffect := by
  intro s t ha hb hs h hidle herr
  obtain ⟨e, f, hrnd, hdrawn, rfl⟩ := engineTurn_endsInError hb hs ((step_of_no_move ha).symm.trans h) hidle herr
  exact ⟨e.code_cases, rfl, rfl, rfl, Memory.get?_nil, hrnd, hdrawn, rfl⟩

/-! ## The idle engine (R237, R101) -/

/-- Settles O6: the idle engine's turn changes nothing, and the poll of a WAIT on it is the one that ends it. -/
theorem idleEngineWaits : Obligations.IdleEngineWaits := by
  intro s hb
  refine ⟨fun h => ?_, fun rest h => ?_⟩
  · rw [step_of_no_move h, engineTurn_of_idle hb]
  · exact step_of_move h (by simp [hb])

end Sys2Proof.Machine
end

section
/-!
PROOFS. The reset and hazards family: the reset input in any state (R250, R251), and a change of the cipher or of its keys
(R242, R252), which R260 and U4 allow outside an operation alone and U8 to a legal block size alone.
-/

namespace Sys2Proof.Machine

/-! ## Reset (R250, R251) -/

/-- R250, U1: after a reset no byte of a memory holds a value of its own. -/
theorem State.get?_space_assertReset (s : State) (sp : Space) (a : Nat) : (s.assertReset.space sp).get? a = none := by
  cases sp <;> exact Memory.get?_nil a

/-- Settles O51: the step is `assertReset`, the reset state on the same platform with the same agents. -/
theorem resetStep : Obligations.ResetStep := by
  intro s rest h
  exact ⟨_, step_of_move h (by simp), rfl, rfl, rfl, rfl, rfl, rfl, rfl, rfl, rfl, rfl, rfl,
    State.get?_space_assertReset _, rfl, rfl, rfl, rfl⟩

/-! ## The moves of the platform (R242, R252), while the engine is busy and while it is idle -/

/-- R260, U4: what the platform may change between operations, it may not change during one. -/
theorem hostTurn_cipherChange_of_busy {s : State} {c : Option Cipher} {f : PortFn} {m : HostMove} (hb : s.busy = true)
    (hm : m = .attach c ∨ m = .setEncryptionKey f ∨ m = .setDecryptionKey f) :
    hostTurn m s = .refused .keyChangeWhileBusy := by
  obtain rfl | rfl | rfl := hm <;> exact if_pos hb

theorem State.attach_of_idle {s : State} {c : Option Cipher} (hb : s.busy = false) (hc : c.all Cipher.wellFormed = true) :
    s.attach c = .next (s.setCipher c) := by
  simp [State.attach, hb, hc]

theorem State.attach_of_illegal {s : State} {c : Option Cipher} (hb : s.busy = false)
    (hc : c.all Cipher.wellFormed = false) : s.attach c = .refused .blockSizeOutOfRange := by
  simp [State.attach, hb, hc]

theorem State.setEncryptionKey_of_idle {s : State} (f : PortFn) (hb : s.busy = false) :
    s.setEncryptionKey f = .next (s.setCipher (s.plat.cipher.map fun c => { c with enc := f })) := by
  simp [State.setEncryptionKey, hb]

theorem State.setDecryptionKey_of_idle {s : State} (f : PortFn) (hb : s.busy = false) :
    s.setDecryptionKey f = .next (s.setCipher (s.plat.cipher.map fun c => { c with dec := f })) := by
  simp [State.setDecryptionKey, hb]

/-! ## What a changed cipher leaves as it was (R242) -/

section mapCipher
variable (s : State)

theorem State.cbound_mapCipher (g : Cipher → Cipher) : (s.setCipher (s.plat.cipher.map g)).cbound = s.cbound := by
  simp [State.cbound]

theorem State.blkSz_mapCipher {g : Cipher → Cipher} (hsize : ∀ c, (g c).size = c.size) :
    (s.setCipher (s.plat.cipher.map g)).blkSz = s.blkSz := by
  cases hc : s.plat.cipher <;> simp [State.blkSz, blockSizeOf, hc, hsize]

/-- A new decryption key leaves E as it was (log 16). -/
theorem State.cipherEnc_mapCipher_dec (f : PortFn) (x : ByteString) :
    (s.setCipher (s.plat.cipher.map fun c => { c with dec := f })).cipherEnc x = s.cipherEnc x := by
  cases hc : s.plat.cipher <;> simp [State.cipherEnc, hc]

/-- A new encryption key leaves D as it was (log 16). -/
theorem State.cipherDec_mapCipher_enc (f : PortFn) (x : ByteString) :
    (s.setCipher (s.plat.cipher.map fun c => { c with enc := f })).cipherDec x = s.cipherDec x := by
  cases hc : s.plat.cipher <;> simp [State.cipherDec, hc]

end mapCipher

/-- Settles O49: the step is the platform's move, refused while the engine is busy; on an idle engine an attachment goes by
its block size, and a key call maps one direction of the attached cipher. -/
theorem cipherChangesOutsideOperations : Obligations.CipherChangesOutsideOperations := by
  intro s rest c f m htodo hm
  have hstep : step s = hostTurn m { s with host := { s.host with todo := rest } } :=
    step_of_move htodo (by rintro ⟨rfl, -⟩; simp at hm)
  refine ⟨fun hb => hstep.trans (hostTurn_cipherChange_of_busy hb hm), ?_, ?_, fun hb hne => ?_⟩
  · rintro hb rfl hc
    exact hstep.trans (State.attach_of_idle hb hc)
  · rintro hb rfl hc
    exact hstep.trans (State.attach_of_illegal hb hc)
  · obtain rfl | rfl | rfl := hm
    · exact absurd rfl hne
    · exact ⟨_, hstep.trans (State.setEncryptionKey_of_idle f hb), State.cbound_mapCipher _ _,
        State.blkSz_mapCipher _ fun _ => rfl, fun a ha _ => by simp [ha], nofun,
        fun x _ => State.cipherDec_mapCipher_enc _ f x, nofun, rfl⟩
    · exact ⟨_, hstep.trans (State.setDecryptionKey_of_idle f hb), State.cbound_mapCipher _ _,
        State.blkSz_mapCipher _ fun _ => rfl, nofun, fun a ha _ => by simp [ha], nofun,
        fun x _ => State.cipherEnc_mapCipher_dec _ f x, rfl⟩

end Sys2Proof.Machine
end
